-- ==== Sys2Proof/Word.lean ====
section
/-! DEFINITION. The word types: the 64-bit command word (R46), the byte, and the fixed-length byte arrays (R4). -/

namespace Sys2Proof

/-- A command word (R46). -/
abbrev Word := BitVec 64

/-- A byte (R4). -/
abbrev Byte := BitVec 8

/-- A byte array of length `n`, elements `B[0]` to `B[n-1]` (R4). -/
abbrev Bytes (n : Nat) := Vector Byte n

/-- `zeros(n)`: the array of `n` zero bytes (R4). -/
def zeros (n : Nat) : Bytes n := Vector.replicate n 0

end Sys2Proof
end

