-- ==== Sys2Proof/Machine/Types.lean ====
section
/-! DEFINITION. The data the block moves: slots, frames, transport answers, causes, events, the parameters of R2, and
the turns of the environment. -/

namespace Sys2Proof.Machine

/-- A slot, "the positional role (0 or 1) a frame identifier designates" (00_scope.md section 5). -/
inductive Slot where
  | slot0
  | slot1
  deriving DecidableEq, Repr, Inhabited

/-- The frame record (R52). -/
structure Frame where
  /-- frame identifier, held and compared in full -/
  id : BitVec 29
  /-- extended addressing -/
  ide : BitVec 1
  /-- remote request -/
  rtr : BitVec 1
  /-- data length code -/
  dlc : BitVec 4
  /-- `data[0]` to `data[7]` -/
  data : Bytes 8
  deriving DecidableEq, Repr, Inhabited

/-- The logical record: the two telemetry fields (R55, R59). -/
structure Record where
  rotationalSpeed : BitVec 16
  vehicleSpeed : BitVec 16
  deriving DecidableEq, Repr, Inhabited

/-- The transport's answer to a `Send` (R5, R36). -/
inductive SendAnswer where
  | success
  | failure
  deriving DecidableEq, Repr, Inhabited

/-- The transport's answer to a `Receive`: no frame, or any frame record (R5, R36). -/
inductive ReceiveAnswer where
  | timeout
  | frame (f : Frame)
  deriving DecidableEq, Repr, Inhabited

/-- The causes (R122). Codes 8 to 15 are never produced, so they have no constructor. -/
inductive Cause where
  | ok
  | sendFailure
  | receiveTimeout
  | unexpectedIdentifier
  | incompleteRecord
  | illegalOpcode
  | reservedNonzero
  | unitBusy
  deriving DecidableEq, Repr, Inhabited

/-- The side of a Trace (R63). -/
inductive Side where
  | tx
  | rx
  deriving DecidableEq, Repr, Inhabited

/-- The direction tag of a Trace (R62). -/
inductive Direction where
  | sent
  | received
  | failed
  deriving DecidableEq, Repr, Inhabited

/-- A Trace event's fields (R61). -/
structure Trace where
  /-- drawn timestamp, milliseconds (R116) -/
  time : Nat
  side : Side
  dir : Direction
  /-- the slot of the attempt (R64) -/
  label : Slot
  /-- absent only for a receive timeout -/
  frame : Option Frame
  deriving DecidableEq, Repr, Inhabited

/-- The events of the event port (R57, R58, R59, R61). -/
inductive Event where
  | cmdResp (opcode : BitVec 8) (cause : Cause)
  | encDone (tx0 tx1 : Cause)
  | decDone (rx0 rx1 rec : Cause) (record : Option Record)
  | trace (t : Trace)
  deriving DecidableEq, Repr, Inhabited

/-- The two configuration arguments of R2. The model fixes no value for either. -/
structure Params where
  /-- `P_TX_TIMEOUT` -/
  txTimeout : BitVec 32
  /-- `P_TRACE_RX_TIMEOUT` -/
  traceRxTimeout : Bool
  deriving DecidableEq, Repr, Inhabited

/-- One turn of the environment: which agent takes the next step (R6, R129) and what that step draws (R36, R116).
DESIGN CHOICE (log entry 1), safe: every choice the interaction table of R147 allows is a turn. -/
inductive Turn where
  /-- the host offers a command word (R69) -/
  | host (cmd : Word)
  /-- the encoder unit; the answer its `Send` draws and the timestamp its Trace draws -/
  | encoder (answer : SendAnswer) (time : Nat)
  /-- the decoder unit; the answer its `Receive` draws and the timestamp its Trace, if any, draws -/
  | decoder (answer : ReceiveAnswer) (time : Nat)
  /-- the reset input (R141) -/
  | reset
  deriving DecidableEq, Repr, Inhabited

end Sys2Proof.Machine
end

