-- ==== Sys2Proof/Syntax.lean ====
section
/-! DEFINITION. The commands: one constructor per row of spec/opcode_table.json. -/

namespace Sys2Proof

/-- A command of the codec command set, spec revision 1. -/
inductive Instr where
  /-- `ENC rot, veh`: start an encode cycle (R48, R88). -/
  | enc (rot veh : BitVec 16)
  /-- `DEC timeout`: start a decode cycle (R49, R97). -/
  | dec (timeout : BitVec 32)
  deriving DecidableEq, Repr

end Sys2Proof
end

