-- ==== Sys2Proof/Machine/Operands.lean ====
section
/-! DEFINITION. The operand forms: the fields of a command word (R46 to R50), and the slot identifiers and the match of a
received frame (R54, R80, R99). -/

namespace Sys2Proof.Machine

/-- `cmd[63:56]` (R46). -/
def opcodeField (cmd : Word) : BitVec 8 := cmd.extractLsb' 56 8

/-- `cmd[55:32]` (R46, R50). -/
def rsvField (cmd : Word) : BitVec 24 := cmd.extractLsb' 32 24

/-- `rot = cmd[31:16]` (R48). -/
def rotField (cmd : Word) : BitVec 16 := cmd.extractLsb' 16 16

/-- `veh = cmd[15:0]` (R48). -/
def vehField (cmd : Word) : BitVec 16 := cmd.extractLsb' 0 16

/-- `timeout = cmd[31:0]` (R49). -/
def timeoutField (cmd : Word) : BitVec 32 := cmd.extractLsb' 0 32

/-- The opcode of ENC (R47). -/
def opcodeEnc : BitVec 8 := 0x01

/-- The opcode of DEC (R47). -/
def opcodeDec : BitVec 8 := 0x02

/-- The allocated opcodes (R47). -/
def opcodeAllocated (op : BitVec 8) : Bool := op == opcodeEnc || op == opcodeDec

/-- The slot number `k`. -/
def slotIndex : Slot → Nat
  | .slot0 => 0
  | .slot1 => 1

/-- `SLOT_ID[k]` (R54). -/
def slotId : Slot → BitVec 29
  | .slot0 => 0x200
  | .slot1 => 0x201

/-- `slotOf(id)` (R80). The decoder does not use it (R99). -/
def slotOf (id : BitVec 29) : Option Slot :=
  if id = 0x200 then some .slot0 else if id = 0x201 then some .slot1 else none

/-- `match(f, k)`: the full 29-bit identifier alone is compared (R99). -/
def frameMatches (f : Frame) (k : Slot) : Bool := f.id == slotId k

end Sys2Proof.Machine
end

