-- ==== Sys2Proof/WellFormed.lean ====
section
/-! DEFINITION. Well-formed commands. The operands of `Instr` have the spec's exact widths, so every `Instr` is well
formed (R48, R49); the two checks of the command space are on the word (R47, R50). -/

namespace Sys2Proof

/-- Every operand value is legal: R48 "Every value 0x0000 to 0xFFFF is legal", R49 "The value 0 is legal". -/
def Instr.wellFormed : Instr → Bool
  | .enc _ _ => true
  | .dec _ => true

/-- A word that is some command: an allocated opcode (R47) and a zero reserved field (R50). -/
def wordWellFormed (cmd : Word) : Bool :=
  Machine.opcodeAllocated (Machine.opcodeField cmd) && Machine.rsvField cmd == 0

end Sys2Proof
end

