-- ==== Sys2Proof/Decode.lean ====
section
/-! DEFINITION. The decoder of command words, total on every 64-bit word and rejecting by name (R47, R50, R70), and the
encoder (R65). -/

namespace Sys2Proof

/-- Why a word is no command, in the priority order of R128. -/
inductive DecodeError where
  /-- the opcode is unallocated (R47) -/
  | illegalOpcode
  /-- the opcode is allocated and the reserved field is not zero (R50) -/
  | reservedNonzero
  deriving DecidableEq, Repr

/-- The cause a rejected word is answered with (R70). -/
def decodeErrorCause : DecodeError → Machine.Cause
  | .illegalOpcode => .illegalOpcode
  | .reservedNonzero => .reservedNonzero

/-- The first two tests of R70, then the operand fields of R48 and R49. -/
def decode (cmd : Word) : Except DecodeError Instr :=
  if Machine.opcodeAllocated (Machine.opcodeField cmd) = false then .error .illegalOpcode
  else if Machine.rsvField cmd ≠ 0 then .error .reservedNonzero
  else if Machine.opcodeField cmd = Machine.opcodeEnc then
    .ok (.enc (Machine.rotField cmd) (Machine.vehField cmd))
  else .ok (.dec (Machine.timeoutField cmd))

/-- The opcode of a command (R47). -/
def opcodeOf : Instr → BitVec 8
  | .enc _ _ => Machine.opcodeEnc
  | .dec _ => Machine.opcodeDec

/-- The 32 operand bits of a command (R48, R49). -/
def operandOf : Instr → BitVec 32
  | .enc rot veh => rot ++ veh
  | .dec timeout => timeout

/-- The word of a command: opcode, zero reserved field, operand (R46). -/
def encode (i : Instr) : Word := opcodeOf i ++ (0 : BitVec 24) ++ operandOf i

/-- One row of spec/opcode_table.json: the fixed bits of a word, under a mask. -/
def rowMatches (mask pattern cmd : Word) : Bool := cmd &&& mask == pattern

/-- The ENC row of spec/opcode_table.json. -/
def encRow (cmd : Word) : Bool := rowMatches 0xFFFFFFFF00000000 0x0100000000000000 cmd

/-- The DEC row of spec/opcode_table.json. -/
def decRow (cmd : Word) : Bool := rowMatches 0xFFFFFFFF00000000 0x0200000000000000 cmd

/-- The command word whose low `nbits` bits are those of `w` and whose other bits are zero. -/
def tableWord (nbits w : Nat) : Word := BitVec.ofNat 64 (w % 2 ^ nbits)

/-- What the decoder reads from a table row's word. A command is one 64-bit word (R51), so bit `b` of the word is bit
`b` of the table's numbering, and a row of more than 64 bits is no command (log entry 5). -/
def decodeTableWord (nbits w : Nat) : Option Instr :=
  if nbits ≤ 64 then
    match decode (tableWord nbits w) with
    | .ok i => some i
    | .error _ => none
  else none

end Sys2Proof
end

