-- ==== Sys2Proof/Config.lean ====
section
/-! DEFINITION. What the spec leaves open: the two parameters of R2, and the free turns of the environment. None has a
body, so nothing can be proved about their values. -/

namespace Sys2Proof.Config

/-- `P_TX_TIMEOUT` and `P_TRACE_RX_TIMEOUT` (R2: "It fixes no value for either"). Safe: log entry 3. -/
opaque params : Machine.Params

/-- The free turn number `n`: which agent steps next, the word a host offers, the transport's answer and the timestamp,
where `State.schedule` lists none (R6, R36, R116, R129, R147). Safe: log entry 1. -/
opaque freeTurn : Nat → Machine.Turn

end Sys2Proof.Config
end

