-- ==== Sys2Proof/Machine/State.lean ====
section
/-! DEFINITION. The state as plain data: the nine elements of 10_state.md, the event history, and the model's own record
of the transport ports and of the environment's turns. -/

namespace Sys2Proof.Machine

/-- The values of `enc.phase` (R11); the register "never holds 3". -/
inductive EncPhase where
  | idle
  | send0
  | send1
  deriving DecidableEq, Repr, Inhabited

/-- The values of `dec.phase` (R14); the register "never holds 3". -/
inductive DecPhase where
  | idle
  | rx0
  | rx1
  deriving DecidableEq, Repr, Inhabited

/-- The encoder unit's elements (R11 to R13). -/
structure EncUnit where
  phase : EncPhase
  /-- the 16-byte logical payload register (R12) -/
  buf : Bytes 16
  /-- the outcome of the slot-0 send (R13) -/
  cause0 : Cause
  deriving DecidableEq, Repr

/-- The decoder unit's elements (R14 to R18). -/
structure DecUnit where
  phase : DecPhase
  /-- the latched `timeoutPerAttempt` (R15) -/
  timeout : BitVec 32
  /-- `dec.slot[0]` (R16) -/
  slot0 : Bytes 8
  /-- `dec.slot[1]` (R16) -/
  slot1 : Bytes 8
  /-- the valid-slot tracker (R17) -/
  valid : BitVec 2
  /-- the outcome of attempt 1 (R18) -/
  cause0 : Cause
  deriving DecidableEq, Repr

/-- One transaction of the transmit port: `Send(frame, timeout)` and its answer (R5, R7). -/
structure SendRecord where
  frame : Frame
  timeout : BitVec 32
  answer : SendAnswer
  deriving DecidableEq, Repr

/-- One transaction of the receive port: `Receive(timeout)` and its answer (R5, R7). -/
structure ReceiveRecord where
  timeout : BitVec 32
  answer : ReceiveAnswer
  deriving DecidableEq, Repr

/-- The machine. `events` is the event history (R23); `sends` and `receives` are the model's record of the two transport
ports (log entry 6); `schedule` and `drawn` say where the environment's next turn comes from (log entry 1). -/
structure State where
  enc : EncUnit
  dec : DecUnit
  /-- the event history, oldest first (R23, R41) -/
  events : List Event
  /-- the transmit port's transactions, oldest first -/
  sends : List SendRecord
  /-- the receive port's transactions, oldest first -/
  receives : List ReceiveRecord
  /-- the turns the environment takes next, the next one first -/
  schedule : List Turn
  /-- how many free turns were taken -/
  drawn : Nat
  deriving DecidableEq, Repr

/-- The reasons a step stops. There is none: R125 "The block has no trap mechanism", R124 "No cause is fatal" (log
entry 10). Safe: nothing is raised. -/
inductive Fault where
  deriving DecidableEq, Repr

/-- The reasons a step is refused. -/
inductive Refusal where
  /-- Raised only by an arm of `exec` whose instruction has no meaning yet; no arm does so in this model. Safe: the
  machine stops where the hardware goes on. -/
  | notModelled (mnemonic : String)
  deriving DecidableEq, Repr

/-- The encoder's reset values (R24). -/
def EncUnit.reset : EncUnit := { phase := .idle, buf := zeros 16, cause0 := .ok }

/-- The decoder's reset values (R24). -/
def DecUnit.reset : DecUnit :=
  { phase := .idle, timeout := 0x00000000, slot0 := zeros 8, slot1 := zeros 8, valid := 0b00, cause0 := .ok }

/-- The state before the first step of any run (R24, R144), with nothing observed yet and no turn listed (DESIGN CHOICE,
log entry 4). -/
def State.reset : State :=
  { enc := .reset, dec := .reset, events := [], sends := [], receives := [], schedule := [], drawn := 0 }

end Sys2Proof.Machine
end

