-- ==== Sys2Proof/Machine/Flags.lean ====
section
/-! DEFINITION. The flags, which are the two bits of the valid-slot tracker (R17), the cause and direction of each
transport answer, and the codes of the phases and causes. -/

namespace Sys2Proof.Machine

/-- `dec.valid[k]` (R17). -/
def validBit (v : BitVec 2) (k : Slot) : Bool := v.getLsbD (slotIndex k)

/-- `dec.valid[k] <- 1` (R104). -/
def setValid (v : BitVec 2) (k : Slot) : BitVec 2 := v ||| (1#2 <<< slotIndex k)

/-- `dec.valid = 0b11` (R107). -/
def bothFilled (v : BitVec 2) : Bool := v == 0b11

/-- The cause of a `Send` answer (R90, R91). -/
def sendCause : SendAnswer → Cause
  | .success => .ok
  | .failure => .sendFailure

/-- The direction tag of a `Send` answer (R113). -/
def sendDirection : SendAnswer → Direction
  | .success => .sent
  | .failure => .failed

/-- The cause of a `Receive` answer at the attempt for slot `k` (R100). -/
def receiveCause (k : Slot) : ReceiveAnswer → Cause
  | .timeout => .receiveTimeout
  | .frame f => if frameMatches f k then .ok else .unexpectedIdentifier

/-- `enc.phase != IDLE` (R72). -/
def encBusy (e : EncUnit) : Bool := e.phase != .idle

/-- `dec.phase != IDLE` (R72). -/
def decBusy (d : DecUnit) : Bool := d.phase != .idle

/-- The 2-bit value of `enc.phase` (R11). -/
def encPhaseCode : EncPhase → BitVec 2
  | .idle => 0
  | .send0 => 1
  | .send1 => 2

/-- The 2-bit value of `dec.phase` (R14). -/
def decPhaseCode : DecPhase → BitVec 2
  | .idle => 0
  | .rx0 => 1
  | .rx1 => 2

/-- The 4-bit cause codes (R122). -/
def causeCode : Cause → BitVec 4
  | .ok => 0
  | .sendFailure => 1
  | .receiveTimeout => 2
  | .unexpectedIdentifier => 3
  | .incompleteRecord => 4
  | .illegalOpcode => 5
  | .reservedNonzero => 6
  | .unitBusy => 7

end Sys2Proof.Machine
end

