-- ==== Sys2Proof/Machine/Serializer.lean ====
section
/-! DEFINITION. The field serializer: the pure functions of 41_serializer.md. -/

namespace Sys2Proof.Machine

/-- `pack(rot, veh)`: big-endian fields in bytes 0 to 3, the rest zero (R31, R77). -/
def pack (rot veh : BitVec 16) : Bytes 16 :=
  #v[rot.extractLsb' 8 8, rot.extractLsb' 0 8, veh.extractLsb' 8 8, veh.extractLsb' 0 8,
    0, 0, 0, 0, 0, 0, 0, 0, 0, 0, 0, 0]

/-- `split(L, k) = L[8k..8k+8)` (R78). -/
def split (L : Bytes 16) : Slot → Bytes 8
  | .slot0 => Vector.ofFn fun i : Fin 8 => L[i.val]
  | .slot1 => Vector.ofFn fun i : Fin 8 => L[8 + i.val]

/-- `txFrame(k, L)` (R53, R79). -/
def txFrame (k : Slot) (L : Bytes 16) : Frame :=
  { id := slotId k, ide := 0, rtr := 0, dlc := 8, data := split L k }

/-- `assemble(s0, s1) = s0 ++ s1` (R81). -/
def assemble (s0 s1 : Bytes 8) : Bytes 16 := s0 ++ s1

/-- `extract(A)`: the two big-endian fields of bytes 0 to 3 (R31, R82). -/
def extract (A : Bytes 16) : Record :=
  { rotationalSpeed := A[0] ++ A[1], vehicleSpeed := A[2] ++ A[3] }

end Sys2Proof.Machine
end

