-- ==== Sys2Proof/Machine/Ops.lean ====
section
/-! DEFINITION. The named operations over the state: `Emit`, `Send`, `Receive` (R5), the frame buffer and its tracker, the
reset step, and the taking of the environment's next turn. The block has no exception entry (R125): what stands in its
place is the one operation `State.respond`, by which a command step answers with a cause. -/

namespace Sys2Proof.Machine

/-- `Emit(e)`: append to the event history (R5, R23). -/
def State.emit (e : Event) (s : State) : State := { s with events := s.events ++ [e] }

/-- Emit the CmdResp of a command step (R57, R69). A command that is answered with a cause other than OK leaves nothing
else behind (R71). -/
def State.respond (opcode : BitVec 8) (cause : Cause) (s : State) : State := s.emit (.cmdResp opcode cause)

/-- `Send(f, t)` answered by `a`: one transaction on the transmit port (R5, R36). -/
def State.send (f : Frame) (t : BitVec 32) (a : SendAnswer) (s : State) : State :=
  { s with sends := s.sends ++ [{ frame := f, timeout := t, answer := a }] }

/-- `Receive(dec.timeout)` answered by `a`: one transaction on the receive port (R5, R15, R36). -/
def State.receive (a : ReceiveAnswer) (s : State) : State :=
  { s with receives := s.receives ++ [{ timeout := s.dec.timeout, answer := a }] }

/-- `dec.slot[k]` (R16). -/
def slotData (d : DecUnit) : Slot → Bytes 8
  | .slot0 => d.slot0
  | .slot1 => d.slot1

/-- `dec.slot[k] <- data` and `dec.valid[k] <- 1`: the whole 8-byte value, whatever the frame's `dlc` (R103, R104). -/
def fillSlot (k : Slot) (data : Bytes 8) (d : DecUnit) : DecUnit :=
  match k with
  | .slot0 => { d with slot0 := data, valid := setValid d.valid .slot0 }
  | .slot1 => { d with slot1 := data, valid := setValid d.valid .slot1 }

/-- What a `Receive` answer at the attempt for slot `k` does to the frame buffer: a match fills the slot, a frame that
does not match is discarded (R105), a timeout fills nothing (R106). -/
def storeAnswer (k : Slot) (a : ReceiveAnswer) (d : DecUnit) : DecUnit :=
  match a with
  | .timeout => d
  | .frame f => if frameMatches f k then fillSlot k f.data d else d

/-- The reset step: every state element to its reset value, no event, no transaction, the histories kept (R142, R145). -/
def resetStep (s : State) : State := { s with enc := .reset, dec := .reset }

/-- The environment's next turn: the first one listed, else a free one (R6, R129; log entry 1). -/
def State.nextTurn (s : State) : Turn :=
  match s.schedule with
  | turn :: _ => turn
  | [] => Config.freeTurn s.drawn

/-- The state once the next turn is taken off the schedule, or drawn. -/
def State.consumeTurn (s : State) : State :=
  match s.schedule with
  | _ :: rest => { s with schedule := rest }
  | [] => { s with drawn := s.drawn + 1 }

end Sys2Proof.Machine
end

