-- ==== Sys2Proof/Machine/TraceEmitter.lean ====
section
/-! DEFINITION. The trace emitter (44_trace.md) and the fields a host renderer prints from a Trace (R120, R121). -/

namespace Sys2Proof.Machine

/-- The Trace of a send attempt (R113). -/
def sendTrace (k : Slot) (f : Frame) (a : SendAnswer) (time : Nat) : Trace :=
  { time := time, side := .tx, dir := sendDirection a, label := k, frame := some f }

/-- The Trace of a receive attempt: of the frame received, matched or not (R114), or of a timeout if
`P_TRACE_RX_TIMEOUT` is true (R115). -/
def receiveTrace (p : Params) (k : Slot) (a : ReceiveAnswer) (time : Nat) : Option Trace :=
  match a with
  | .frame f => some { time := time, side := .rx, dir := .received, label := k, frame := some f }
  | .timeout =>
    if p.traceRxTimeout then some { time := time, side := .rx, dir := .failed, label := k, frame := none } else none

/-- Emit a Trace, if there is one. It writes the event history and nothing else (R118). -/
def State.emitTrace (t : Option Trace) (s : State) : State :=
  match t with
  | some t => s.emit (.trace t)
  | none => s

/-- The direction strings (R62). -/
def directionText : Direction → String
  | .sent => "Sent"
  | .received => "Received"
  | .failed => "Failed"

/-- The label strings (R64). -/
def labelText : Slot → String
  | .slot0 => "Part 1"
  | .slot1 => "Part 2"

/-- The fields of a rendered trace line, in the order of R120. Separators, padding and the case of hexadecimal digits
are not in the source (log entry 11). -/
structure TraceLine where
  hours : Nat
  minutes : Nat
  seconds : Nat
  milliseconds : Nat
  direction : String
  identifier : Option (BitVec 29)
  label : String
  payloadLength : Option (BitVec 4)
  payload : Option (Bytes 8)
  deriving DecidableEq, Repr

/-- The rendering of a Trace (R120), with the time split of R121. For a timeout trace the identifier, length and bytes
are omitted. -/
def renderTrace (t : Trace) : TraceLine :=
  { hours := t.time / 3600000
    minutes := t.time / 60000 % 60
    seconds := t.time / 1000 % 60
    milliseconds := t.time % 1000
    direction := directionText t.dir
    identifier := t.frame.map (·.id)
    label := labelText t.label
    payloadLength := t.frame.map (·.dlc)
    payload := t.frame.map (·.data) }

end Sys2Proof.Machine
end

