-- ==== Sys2Proof/Machine/DecoderUnit.lean ====
section
/-! DEFINITION. The decoder unit (43_decoder.md): the command DEC, and the two receive steps of its cycle with the frame
buffer and the valid-slot tracker. -/

namespace Sys2Proof.Machine

/-- DEC acceptance (R97): `dec.cause0` is not written. -/
def decAccept (timeout : BitVec 32) (s : State) : State :=
  { s with
    dec := { s.dec with timeout := timeout, slot0 := zeros 8, slot1 := zeros 8, valid := 0b00, phase := .rx0 } }

/-- The meaning of `DEC timeout` once its word has passed the opcode and reserved tests: the busy test of R70, the
CmdResp, and the acceptance of R97. -/
def execDec (timeout : BitVec 32) (s : State) : Host.Outcome State Fault Refusal :=
  if decBusy s.dec then .next (s.respond opcodeDec .unitBusy)
  else .next (decAccept timeout (s.respond opcodeDec .ok))

/-- `attempt(k)` (R100): `Receive`, trace, then store on a match. The cause it returns is `receiveCause k a`. -/
def attempt (p : Params) (k : Slot) (a : ReceiveAnswer) (time : Nat) (s : State) : State :=
  let s := (s.receive a).emitTrace (receiveTrace p k a time)
  { s with dec := storeAnswer k a s.dec }

/-- The attempt-1 step, phase RX0 (R101). -/
def receiveStep0 (p : Params) (a : ReceiveAnswer) (time : Nat) (s : State) : State :=
  let s := attempt p .slot0 a time s
  { s with dec := { s.dec with cause0 := receiveCause .slot0 a, phase := .rx1 } }

/-- The DecDone of a decode cycle whose attempt 2 gave the cause `rx1` (R102, R107 to R109). -/
def decDoneEvent (d : DecUnit) (rx1 : Cause) : Event :=
  if bothFilled d.valid then .decDone d.cause0 rx1 .ok (some (extract (assemble d.slot0 d.slot1)))
  else .decDone d.cause0 rx1 .incompleteRecord none

/-- The attempt-2 and completion step, phase RX1 (R102). -/
def receiveStep1 (p : Params) (a : ReceiveAnswer) (time : Nat) (s : State) : State :=
  let s := attempt p .slot1 a time s
  let s := s.emit (decDoneEvent s.dec (receiveCause .slot1 a))
  { s with dec := { s.dec with phase := .idle } }

/-- The decoder's turn. With `dec.phase = IDLE` "the decoder has no step" (R98), and its turn changes nothing (log
entry 2). -/
def decoderTurn (p : Params) (a : ReceiveAnswer) (time : Nat) (s : State) : State :=
  match s.dec.phase with
  | .idle => s
  | .rx0 => receiveStep0 p a time s
  | .rx1 => receiveStep1 p a time s

end Sys2Proof.Machine
end

