-- ==== Sys2Proof/Machine/EncoderUnit.lean ====
section
/-! DEFINITION. The encoder unit (42_encoder.md): the command ENC and the two send steps of its cycle. -/

namespace Sys2Proof.Machine

/-- ENC acceptance (R88): `enc.cause0` is not written. -/
def encAccept (rot veh : BitVec 16) (s : State) : State :=
  { s with enc := { s.enc with buf := pack rot veh, phase := .send0 } }

/-- The meaning of `ENC rot, veh` once its word has passed the opcode and reserved tests: the busy test of R70, the
CmdResp, and the acceptance of R88. -/
def execEnc (rot veh : BitVec 16) (s : State) : Host.Outcome State Fault Refusal :=
  if encBusy s.enc then .next (s.respond opcodeEnc .unitBusy)
  else .next (encAccept rot veh (s.respond opcodeEnc .ok))

/-- The part the two send steps share: build the frame anew from `enc.buf` (R94), `Send` it, and trace the attempt
(R90, R91, R113). -/
def sendAttempt (p : Params) (k : Slot) (a : SendAnswer) (time : Nat) (s : State) : State :=
  (s.send (txFrame k s.enc.buf) p.txTimeout a).emitTrace (some (sendTrace k (txFrame k s.enc.buf) a time))

/-- The slot-0 send step, phase SEND0 (R90). -/
def sendStep0 (p : Params) (a : SendAnswer) (time : Nat) (s : State) : State :=
  let s := sendAttempt p .slot0 a time s
  { s with enc := { s.enc with cause0 := sendCause a, phase := .send1 } }

/-- The slot-1 send step, phase SEND1 (R91). -/
def sendStep1 (p : Params) (a : SendAnswer) (time : Nat) (s : State) : State :=
  let s := (sendAttempt p .slot1 a time s).emit (.encDone s.enc.cause0 (sendCause a))
  { s with enc := { s.enc with phase := .idle } }

/-- The encoder's turn. With `enc.phase = IDLE` "the encoder has no step" (R89), and its turn changes nothing (log
entry 2). -/
def encoderTurn (p : Params) (a : SendAnswer) (time : Nat) (s : State) : State :=
  match s.enc.phase with
  | .idle => s
  | .send0 => sendStep0 p a time s
  | .send1 => sendStep1 p a time s

end Sys2Proof.Machine
end

