-- ==== Sys2Proof/Machine/Dispatch.lean ====
section
/-! DEFINITION. One arm per command. -/

namespace Sys2Proof.Machine

/-- The meaning of a command whose word the decoder accepts. -/
def exec (i : Instr) (s : State) : Host.Outcome State Fault Refusal :=
  match i with
  | .enc rot veh => Sys2Proof.Machine.execEnc rot veh s
  | .dec timeout => Sys2Proof.Machine.execDec timeout s

end Sys2Proof.Machine
end

