-- ==== Sys2Proof/Machine/CommandPort.lean ====
section
/-! DEFINITION. The command port (40_command.md) and the turn of each agent (R6). -/

namespace Sys2Proof.Machine

/-- The command step (R69, R70): a word that is no command is answered with its cause and changes no state element
(R71); a command has the meaning `exec` gives it. -/
def commandStep (cmd : Word) (s : State) : Host.Outcome State Fault Refusal :=
  match decode cmd with
  | .error e => .next (s.respond (opcodeField cmd) (decodeErrorCause e))
  | .ok i => exec i s

/-- One step of the agent whose turn it is (R6). -/
def takeTurn (p : Params) (turn : Turn) (s : State) : Host.Outcome State Fault Refusal :=
  match turn with
  | .host cmd => commandStep cmd s
  | .encoder answer time => .next (encoderTurn p answer time s)
  | .decoder answer time => .next (decoderTurn p answer time s)
  | .reset => .next (resetStep s)

/-- Offer the word `cmd` at the command port next (R69): what stands for a fetch (R44; log entry 5). -/
def offerCommand (cmd : Word) (s : State) : State := { s with schedule := .host cmd :: s.schedule }

end Sys2Proof.Machine
end

