-- ==== Sys2Proof/Machine/Step.lean ====
section
/-! DEFINITION. The step of the machine: the agent whose turn is next takes one atomic step (R6). -/

namespace Sys2Proof.Machine

/-- One step of the machine. -/
def step (s : State) : Host.Outcome State Fault Refusal := takeTurn Config.params s.nextTurn s.consumeTurn

/-- `s` with the command word of a table row offered at the command port next, so that the next step runs it (R44, R69;
log entry 5). -/
def State.withFetchWord (s : State) (nbits w : Nat) : State := offerCommand (tableWord nbits w) s

end Sys2Proof.Machine
end

