-- ==== Sys2Proof/Machine/Assembler.lean ====
section
/-! DEFINITION. The assembler of the command set (R65 to R67): one source line, as a list of characters, to one word, no
word, or a rejection. What the spec leaves open of the text form is in log entry 9. -/

namespace Sys2Proof.Machine

/-- A source line, its operands read as integers of any size (R65). -/
inductive SourceLine where
  | enc (rot veh : Nat)
  | dec (timeout : Nat)
  | cmd (word : Nat)
  deriving DecidableEq, Repr

/-- Why the assembler emits no word (R66). -/
inductive AsmError where
  | unknownMnemonic
  | operandCount
  | badInteger
  | operandRange
  deriving DecidableEq, Repr

/-- The word of a source line whose operands are in range (R65, R67); else no word (R66). -/
def assembleSource : SourceLine → Except AsmError Word
  | .enc rot veh =>
    if rot ≤ 65535 ∧ veh ≤ 65535 then .ok (encode (.enc (.ofNat 16 rot) (.ofNat 16 veh))) else .error .operandRange
  | .dec timeout => if timeout ≤ 4294967295 then .ok (encode (.dec (.ofNat 32 timeout))) else .error .operandRange
  | .cmd word => if word < 2 ^ 64 then .ok (.ofNat 64 word) else .error .operandRange

/-- The value of one digit in base ten or sixteen. -/
def digitValue (base : Nat) (c : Char) : Option Nat :=
  let n := c.toNat
  let v := if 48 ≤ n ∧ n ≤ 57 then n - 48 else if 97 ≤ n ∧ n ≤ 102 then n - 87
    else if 65 ≤ n ∧ n ≤ 70 then n - 55 else 16
  if v < base then some v else none

/-- The value of a run of digits, read after the value `acc`. -/
def digitsValue (base acc : Nat) : List Char → Option Nat
  | [] => some acc
  | c :: cs =>
    match digitValue base c with
    | some v => digitsValue base (acc * base + v) cs
    | none => none

/-- An integer in decimal or as `0x` hexadecimal (R65). -/
def parseInteger : List Char → Except AsmError Nat
  | [] => .error .badInteger
  | ['0', 'x'] => .error .badInteger
  | '0' :: 'x' :: cs =>
    match digitsValue 16 0 cs with
    | some n => .ok n
    | none => .error .badInteger
  | cs =>
    match digitsValue 10 0 cs with
    | some n => .ok n
    | none => .error .badInteger

/-- White space within a line: space, tab, carriage return. -/
def isBlank (c : Char) : Bool := c == ' ' || c == '\t' || c == '\r'

/-- A text without the white space at its two ends. -/
def trim (cs : List Char) : List Char := ((cs.dropWhile isBlank).reverse.dropWhile isBlank).reverse

/-- A line without its comment: `;` starts a comment that runs to the end of the line (R65). -/
def stripComment (cs : List Char) : List Char := cs.takeWhile (· != ';')

/-- The parts of a text between its commas. -/
def splitCommas : List Char → List (List Char)
  | [] => [[]]
  | c :: cs =>
    match c, splitCommas cs with
    | ',', parts => [] :: parts
    | c, part :: parts => (c :: part) :: parts
    | c, [] => [[c]]

/-- The operands of a line: none, or the trimmed parts between commas, each an integer. -/
def parseOperands (cs : List Char) : Except AsmError (List Nat) :=
  match trim cs with
  | [] => .ok []
  | cs => (splitCommas cs).mapM fun part => parseInteger (trim part)

/-- A letter in lower case: mnemonics are case-insensitive (R65). -/
def lowerChar (c : Char) : Char := if 65 ≤ c.toNat ∧ c.toNat ≤ 90 then Char.ofNat (c.toNat + 32) else c

/-- Read a line whose mnemonic and operands are given; a wrong operand count is rejected (R66). -/
def sourceLine (mnemonic : List Char) (operands : List Nat) : Except AsmError SourceLine :=
  if mnemonic.map lowerChar = ['e', 'n', 'c'] then
    match operands with
    | [rot, veh] => .ok (.enc rot veh)
    | _ => .error .operandCount
  else if mnemonic.map lowerChar = ['d', 'e', 'c'] then
    match operands with
    | [timeout] => .ok (.dec timeout)
    | _ => .error .operandCount
  else if mnemonic = ['.', 'c', 'm', 'd'] then
    match operands with
    | [word] => .ok (.cmd word)
    | _ => .error .operandCount
  else .error .unknownMnemonic

/-- Assemble one line: a word, no word for a line that holds no command, or a rejection (R65, R66). -/
def assembleLine (line : List Char) : Except AsmError (Option Word) :=
  match trim (stripComment line) with
  | [] => .ok none
  | text => do
    let operands ← parseOperands (text.dropWhile fun c => !isBlank c)
    let source ← sourceLine (text.takeWhile fun c => !isBlank c) operands
    let word ← assembleSource source
    return some word

end Sys2Proof.Machine
end

