-- ==== Sys2Proof/Machine/Events.lean ====
section
/-! DEFINITION. The packed words of the events (R57 to R60) and the codes of a Trace's fields (R62 to R64). -/

namespace Sys2Proof.Machine

/-- CMD_RESP (R57). -/
def cmdRespWord (opcode : BitVec 8) (cause : Cause) : BitVec 16 := (0 : BitVec 4) ++ causeCode cause ++ opcode

/-- ENC_STATUS (R58). -/
def encStatusWord (tx0 tx1 : Cause) : BitVec 8 := causeCode tx1 ++ causeCode tx0

/-- DEC_STATUS (R59). -/
def decStatusWord (rx0 rx1 rec : Cause) : BitVec 16 :=
  (0 : BitVec 4) ++ causeCode rec ++ causeCode rx1 ++ causeCode rx0

/-- REC_DATA (R60). -/
def recDataWord (r : Record) : BitVec 32 := r.rotationalSpeed ++ r.vehicleSpeed

/-- The status word of an event; a Trace "has no packed form" (R61). -/
def eventStatusWord : Event → Option (BitVec 16)
  | .cmdResp opcode cause => some (cmdRespWord opcode cause)
  | .encDone tx0 tx1 => some ((encStatusWord tx0 tx1).setWidth 16)
  | .decDone rx0 rx1 rec _ => some (decStatusWord rx0 rx1 rec)
  | .trace _ => none

/-- The REC_DATA word of an event: it exists only where a record does (R60). -/
def eventRecData : Event → Option (BitVec 32)
  | .decDone _ _ _ record => record.map recDataWord
  | .cmdResp _ _ => none
  | .encDone _ _ => none
  | .trace _ => none

/-- Trace direction codes (R62). -/
def directionCode : Direction → BitVec 2
  | .sent => 0
  | .received => 1
  | .failed => 2

/-- Trace side codes (R63). -/
def sideCode : Side → BitVec 1
  | .tx => 0
  | .rx => 1

/-- Trace label codes (R64). -/
def labelCode : Slot → BitVec 1
  | .slot0 => 0
  | .slot1 => 1

end Sys2Proof.Machine
end

