-- ==== Sys2Proof/Safety.lean ====
section
/-! DEFINITION. The terms in which claims speak of runs: a run under a list of turns, the invariants of R26 and of the
histories, and what each unit can see. -/

namespace Sys2Proof.Safety

open Sys2Proof.Machine

/-- A run of the agents in the order `turns` lists them, for any parameters: the schedules of 95_test_vectors.md. R6 and
R129 let any enabled step be next; that an order is a list of turns is the model's choice (log entry 1). -/
def runTurns (p : Params) : List Turn → State → Host.Outcome State Fault Refusal
  | [], s => .next s
  | turn :: turns, s =>
    match takeTurn p turn s with
    | .next s' => runTurns p turns s'
    | .fault r => .fault r
    | .refused r => .refused r

/-- A turn of the encoder or the decoder unit. -/
def unitTurn : Turn → Bool
  | .encoder _ _ => true
  | .decoder _ _ => true
  | .host _ => false
  | .reset => false

/-- A turn that is neither the encoder's nor a reset. -/
def othersThanEncoder : Turn → Bool
  | .encoder _ _ => false
  | .reset => false
  | .host _ => true
  | .decoder _ _ => true

/-- A turn that is neither the decoder's nor a reset. -/
def othersThanDecoder : Turn → Bool
  | .decoder _ _ => false
  | .reset => false
  | .host _ => true
  | .encoder _ _ => true

/-- The encoder's turns. -/
def encoderTurns (turn : Turn) : Bool :=
  match turn with
  | .encoder _ _ => true
  | .decoder _ _ => false
  | .host _ => false
  | .reset => false

/-- The decoder's turns. -/
def decoderTurns (turn : Turn) : Bool :=
  match turn with
  | .decoder _ _ => true
  | .encoder _ _ => false
  | .host _ => false
  | .reset => false

/-! ### The invariants of R26 -/

/-- Slot `k` holds the data of the frame with the slot's identifier that the receive port delivered `n` receives before
its last one (R26 item 4). -/
def FilledBy (s : State) (k : Slot) (n : Nat) : Prop :=
  ∃ timeout f, s.receives.reverse[n]? = some { timeout := timeout, answer := .frame f } ∧ f.id = slotId k ∧
    f.data = slotData s.dec k

/-- R13 and R26 item 5. -/
def EncCauseLegal (e : EncUnit) : Prop := e.cause0 = .ok ∨ e.cause0 = .sendFailure

/-- R18. -/
def DecCauseLegal (d : DecUnit) : Prop :=
  d.cause0 = .ok ∨ d.cause0 = .receiveTimeout ∨ d.cause0 = .unexpectedIdentifier

/-- R26 items 2 and 3: the tracker and the slots in each phase. -/
def TrackerLegal (d : DecUnit) : Prop :=
  (d.phase = .rx0 → d.valid = 0b00 ∧ d.slot0 = zeros 8 ∧ d.slot1 = zeros 8) ∧
  (d.phase = .rx1 → validBit d.valid .slot1 = false ∧ (validBit d.valid .slot0 = true ↔ d.cause0 = .ok))

/-- R26 item 4: a filled slot holds a frame of the current decode cycle or, when IDLE, of the last one. -/
def SlotsFromFrames (s : State) : Prop :=
  (s.dec.phase = .rx1 → validBit s.dec.valid .slot0 = true → FilledBy s .slot0 0) ∧
  (s.dec.phase = .idle →
    (validBit s.dec.valid .slot0 = true → FilledBy s .slot0 1) ∧
    (validBit s.dec.valid .slot1 = true → FilledBy s .slot1 0))

/-- A slot that is not filled is zero: DEC acceptance and reset clear it, and only a match writes it (R16). -/
def UnfilledZero (d : DecUnit) : Prop := ∀ k, validBit d.valid k = false → slotData d k = zeros 8

/-- Bytes 4 to 15 of the payload register are zero (R55, R56). -/
def ReservedZero (L : Bytes 16) : Prop := ∀ (i : Nat) (h : i < 16), 4 ≤ i → L[i] = 0

/-- The state invariant: R26, with R13, R18, R56. Item 1 of R26 holds by the types of the phases. -/
structure StateInv (s : State) : Prop where
  encCause : EncCauseLegal s.enc
  encReserved : ReservedZero s.enc.buf
  decCause : DecCauseLegal s.dec
  tracker : TrackerLegal s.dec
  slots : SlotsFromFrames s
  unfilled : UnfilledZero s.dec

/-! ### The histories -/

/-- What R53 and R87 say of every frame sent, and R2 of the timeout that goes with it. -/
def SendLawful (p : Params) (r : SendRecord) : Prop :=
  ∃ k, r.frame.id = slotId k ∧ r.frame.ide = 0 ∧ r.frame.rtr = 0 ∧ r.frame.dlc = 8 ∧ r.timeout = p.txTimeout ∧
    (k = .slot1 → r.frame.data = zeros 8) ∧ ∀ (i : Nat) (h : i < 8), 4 ≤ i → r.frame.data[i] = 0

/-- What R57 to R64 say of every event. -/
def EventLawful : Event → Prop
  | .cmdResp opcode cause =>
    (cause = .illegalOpcode ∧ opcode ≠ 0x01 ∧ opcode ≠ 0x02) ∨
      ((cause = .ok ∨ cause = .reservedNonzero ∨ cause = .unitBusy) ∧ (opcode = 0x01 ∨ opcode = 0x02))
  | .encDone tx0 tx1 => (tx0 = .ok ∨ tx0 = .sendFailure) ∧ (tx1 = .ok ∨ tx1 = .sendFailure)
  | .decDone rx0 rx1 rec record =>
    (rx0 = .ok ∨ rx0 = .receiveTimeout ∨ rx0 = .unexpectedIdentifier) ∧
      (rx1 = .ok ∨ rx1 = .receiveTimeout ∨ rx1 = .unexpectedIdentifier) ∧
      ((rec = .ok ∧ record.isSome = true ∧ rx0 = .ok ∧ rx1 = .ok) ∨
        (rec = .incompleteRecord ∧ record = none ∧ ¬ (rx0 = .ok ∧ rx1 = .ok)))
  | .trace t =>
    (t.side = .tx ∧ (t.dir = .sent ∨ t.dir = .failed) ∧ ∃ f, t.frame = some f ∧ f.id = slotId t.label) ∨
      (t.side = .rx ∧ t.dir = .received ∧ t.frame.isSome = true) ∨
      (t.side = .rx ∧ t.dir = .failed ∧ t.frame = none)

/-- The state invariant with lawful histories. -/
structure HistoryInv (s : State) : Prop where
  state : StateInv s
  sends : ∀ r ∈ s.sends, SendLawful Config.params r
  events : ∀ e ∈ s.events, EventLawful e

/-- An EncDone event. -/
def isEncDone : Event → Bool
  | .encDone _ _ => true
  | .cmdResp _ _ => false
  | .decDone _ _ _ _ => false
  | .trace _ => false

/-- A DecDone event. -/
def isDecDone : Event → Bool
  | .decDone _ _ _ _ => true
  | .cmdResp _ _ => false
  | .encDone _ _ => false
  | .trace _ => false

/-- A Trace event. -/
def isTrace : Event → Bool
  | .trace _ => true
  | .cmdResp _ _ => false
  | .encDone _ _ => false
  | .decDone _ _ _ _ => false

/-- A state with every Trace taken out of its history. -/
def withoutTraces (s : State) : State := { s with events := s.events.filter fun e => !isTrace e }

/-- The encoder's turn by the pseudocode of R90 and R91 with the line `Emit(Trace{...})` left out. -/
def encoderTurnUntraced (p : Params) (a : SendAnswer) (s : State) : State :=
  match s.enc.phase with
  | .idle => s
  | .send0 =>
    { s.send (txFrame .slot0 s.enc.buf) p.txTimeout a with
      enc := { s.enc with cause0 := sendCause a, phase := .send1 } }
  | .send1 =>
    { (s.send (txFrame .slot1 s.enc.buf) p.txTimeout a).emit (.encDone s.enc.cause0 (sendCause a)) with
      enc := { s.enc with phase := .idle } }

/-- The decoder's turn by the pseudocode of R100 to R102 with both lines `Emit(Trace{...})` left out. -/
def decoderTurnUntraced (a : ReceiveAnswer) (s : State) : State :=
  match s.dec.phase with
  | .idle => s
  | .rx0 =>
    { s.receive a with
      dec := { storeAnswer .slot0 a s.dec with cause0 := receiveCause .slot0 a, phase := .rx1 } }
  | .rx1 =>
    let d := storeAnswer .slot1 a s.dec
    { (s.receive a).emit (decDoneEvent d (receiveCause .slot1 a)) with dec := { d with phase := .idle } }

/-! ### What each unit sees -/

/-- An event of the encoder: its CmdResp, its Trace, its EncDone. -/
def encoderEvent : Event → Bool
  | .cmdResp opcode _ => opcode == opcodeEnc
  | .encDone _ _ => true
  | .decDone _ _ _ _ => false
  | .trace t => t.side == .tx

/-- An event of the decoder: its CmdResp, its Trace, its DecDone. -/
def decoderEvent : Event → Bool
  | .cmdResp opcode _ => opcode == opcodeDec
  | .encDone _ _ => false
  | .decDone _ _ _ _ => true
  | .trace t => t.side == .rx

/-- A turn that concerns the encoder: its own, a word with its opcode, a reset. -/
def concernsEncoder : Turn → Bool
  | .host cmd => opcodeField cmd == opcodeEnc
  | .encoder _ _ => true
  | .decoder _ _ => false
  | .reset => true

/-- A turn that concerns the decoder: its own, a word with its opcode, a reset. -/
def concernsDecoder : Turn → Bool
  | .host cmd => opcodeField cmd == opcodeDec
  | .encoder _ _ => false
  | .decoder _ _ => true
  | .reset => true

/-- All that belongs to the encoder: its elements, its port and its events. -/
def encoderView (s : State) : EncUnit × List SendRecord × List Event :=
  (s.enc, s.sends, s.events.filter encoderEvent)

/-- All that belongs to the decoder: its elements, its port and its events. -/
def decoderView (s : State) : DecUnit × List ReceiveRecord × List Event :=
  (s.dec, s.receives, s.events.filter decoderEvent)

end Sys2Proof.Safety
end

