-- ==== Sys2Proof/Certificates/Slice0/Obligations.lean ====
section
/-! DEFINITION. The statements for the provers, from the numbered rules of spec/. -/

open Sys2Proof Sys2Proof.Machine Sys2Proof.Safety

/-! ### Encodings -/

/-- R46 to R49: no operand bit of a command is dropped between its word and its decoding. -/
def Obligations.DecodeInvertsEncode : Prop := ∀ i : Instr, decode (encode i) = .ok i

/-- R46, R50, R51: a command has one word, the one its fields make. -/
def Obligations.EncodeInvertsDecode : Prop := ∀ (cmd : Word) (i : Instr), decode cmd = .ok i → encode i = cmd

/-- R47, R50, R68: which words are rejected, with which cause, and which are commands. -/
def Obligations.WordClassesPartitionTheCommandSpace : Prop := ∀ cmd : Word,
  (decode cmd = .error .illegalOpcode ↔ cmd.extractLsb 63 56 ≠ 0x01 ∧ cmd.extractLsb 63 56 ≠ 0x02) ∧
  (decode cmd = .error .reservedNonzero ↔
    (cmd.extractLsb 63 56 = 0x01 ∨ cmd.extractLsb 63 56 = 0x02) ∧ cmd.extractLsb 55 32 ≠ 0) ∧
  ((∃ i, decode cmd = .ok i) ↔
    (cmd.extractLsb 63 56 = 0x01 ∨ cmd.extractLsb 63 56 = 0x02) ∧ cmd.extractLsb 55 32 = 0) ∧
  ((∃ i, decode cmd = .ok i) ↔ wordWellFormed cmd = true) ∧
  decode 0 = .error .illegalOpcode

/-- R48: the operand fields of ENC, and their place in the logical payload. -/
def Obligations.EncOperandFields : Prop := ∀ cmd : Word,
  cmd.extractLsb 63 56 = 0x01 → cmd.extractLsb 55 32 = 0 →
  decode cmd = .ok (.enc (cmd.extractLsb 31 16) (cmd.extractLsb 15 0)) ∧
  (pack (cmd.extractLsb 31 16) (cmd.extractLsb 15 0))[0] ++ (pack (cmd.extractLsb 31 16) (cmd.extractLsb 15 0))[1] ++
    (pack (cmd.extractLsb 31 16) (cmd.extractLsb 15 0))[2] ++
    (pack (cmd.extractLsb 31 16) (cmd.extractLsb 15 0))[3] = cmd.extractLsb 31 0

/-- spec/opcode_table.json: a word decodes to a row's command exactly when it has the row's fixed bits. -/
def Obligations.OpcodeTableRowsDecide : Prop := ∀ cmd : Word,
  ((∃ rot veh, decode cmd = .ok (.enc rot veh)) ↔ cmd &&& 0xFFFFFFFF00000000 = 0x0100000000000000) ∧
  ((∃ timeout, decode cmd = .ok (.dec timeout)) ↔ cmd &&& 0xFFFFFFFF00000000 = 0x0200000000000000)

/-- Words written out from the encodings of R46 to R50. -/
def Obligations.WrittenWordsDecode : Prop :=
  decode 0x010000000BB80050 = .ok (.enc 3000 80) ∧
  decode 0x01000000FFFF0001 = .ok (.enc 0xFFFF 1) ∧
  decode 0x0200000000000064 = .ok (.dec 100) ∧
  decode 0x02000000FFFFFFFE = .ok (.dec 0xFFFFFFFE) ∧
  decode 0x8000000000000000 = .error .illegalOpcode ∧
  decode 0x0100000100000000 = .error .reservedNonzero

/-- R65 to R67: the word of each source line, and the operand ranges. -/
def Obligations.AssemblerWords : Prop :=
  (∀ rot veh : Nat, rot ≤ 65535 → veh ≤ 65535 → assembleSource (.enc rot veh) =
    .ok (0x0100000000000000#64 ||| BitVec.ofNat 64 rot <<< 16 ||| BitVec.ofNat 64 veh)) ∧
  (∀ rot veh : Nat, 65535 < rot ∨ 65535 < veh → assembleSource (.enc rot veh) = .error .operandRange) ∧
  (∀ timeout : Nat, timeout ≤ 4294967295 →
    assembleSource (.dec timeout) = .ok (0x0200000000000000#64 ||| BitVec.ofNat 64 timeout)) ∧
  (∀ timeout : Nat, 4294967295 < timeout → assembleSource (.dec timeout) = .error .operandRange) ∧
  (∀ word : Word, assembleSource (.cmd word.toNat) = .ok word) ∧
  (∀ word : Nat, 2 ^ 64 ≤ word → assembleSource (.cmd word) = .error .operandRange)

/-! ### Field serializer -/

/-- R77. -/
def Obligations.PackBytes : Prop := ∀ rot veh : BitVec 16,
  (pack rot veh)[0] = rot.extractLsb 15 8 ∧ (pack rot veh)[1] = rot.extractLsb 7 0 ∧
  (pack rot veh)[2] = veh.extractLsb 15 8 ∧ (pack rot veh)[3] = veh.extractLsb 7 0 ∧
  (∀ (i : Nat) (h : i < 16), 4 ≤ i → (pack rot veh)[i] = 0x00) ∧
  ((pack 0xFFFF veh)[0] = 0xFF ∧ (pack 0xFFFF veh)[1] = 0xFF) ∧ pack 0 0 = zeros 16 ∧
  pack 3000 80 = #v[0x0B, 0xB8, 0x00, 0x50, 0, 0, 0, 0, 0, 0, 0, 0, 0, 0, 0, 0]

/-- R78; of every packed record the second half is zero (R87). -/
def Obligations.SplitBytes : Prop :=
  (∀ (L : Bytes 16) (i : Nat) (h : i < 8), (split L .slot0)[i] = L[i] ∧ (split L .slot1)[i] = L[8 + i]) ∧
  split (pack 3000 80) .slot0 = #v[0x0B, 0xB8, 0x00, 0x50, 0, 0, 0, 0] ∧
  ∀ rot veh : BitVec 16, split (pack rot veh) .slot1 = zeros 8

/-- R79. -/
def Obligations.TxFrameFields : Prop :=
  (∀ L : Bytes 16,
    txFrame .slot0 L = { id := 0x200, ide := 0, rtr := 0, dlc := 8, data := split L .slot0 } ∧
    txFrame .slot1 L = { id := 0x201, ide := 0, rtr := 0, dlc := 8, data := split L .slot1 }) ∧
  txFrame .slot1 (pack 3000 80) = { id := 0x201, ide := 0, rtr := 0, dlc := 8, data := zeros 8 }

/-- R80, with the tie to the match of R99 that R110 draws. -/
def Obligations.SlotOfIdentifier : Prop := ∀ id : BitVec 29,
  (slotOf id = some .slot0 ↔ id = 0x200) ∧ (slotOf id = some .slot1 ↔ id = 0x201) ∧
  (slotOf id = none ↔ id ≠ 0x200 ∧ id ≠ 0x201) ∧
  (∀ (f : Frame) (k : Slot), f.id = id → (frameMatches f k = true ↔ slotOf id = some k)) ∧
  slotOf 0x202 = none ∧ slotOf 0x000 = none

/-- R81. -/
def Obligations.AssembleBytes : Prop :=
  (∀ (s0 s1 : Bytes 8) (i : Nat) (h : i < 8), (assemble s0 s1)[i] = s0[i] ∧ (assemble s0 s1)[8 + i] = s1[i]) ∧
  assemble #v[0x0B, 0xB8, 0x00, 0x50, 0, 0, 0, 0] (zeros 8) = pack 3000 80

/-- R82. -/
def Obligations.ExtractBigEndian : Prop :=
  (∀ A : Bytes 16, (extract A).rotationalSpeed.extractLsb 15 8 = A[0] ∧ (extract A).rotationalSpeed.extractLsb 7 0 = A[1] ∧
    (extract A).vehicleSpeed.extractLsb 15 8 = A[2] ∧ (extract A).vehicleSpeed.extractLsb 7 0 = A[3]) ∧
  (∀ A B : Bytes 16, A[0] = B[0] → A[1] = B[1] → A[2] = B[2] → A[3] = B[3] → extract A = extract B) ∧
  (∀ A : Bytes 16, A[0] = 0x0B → A[1] = 0xB8 → A[2] = 0x00 → A[3] = 0x50 →
    extract A = { rotationalSpeed := 3000, vehicleSpeed := 80 })

/-- R84. -/
def Obligations.RecordRoundTrip : Prop := ∀ rot veh : BitVec 16,
  extract (assemble (split (pack rot veh) .slot0) (split (pack rot veh) .slot1)) =
    { rotationalSpeed := rot, vehicleSpeed := veh }

/-- R85. -/
def Obligations.SecondSlotNeverReachesTheRecord : Prop := ∀ s0 s1 s1' : Bytes 8,
  extract (assemble s0 s1) = extract (assemble s0 s1') ∧
  extract (assemble s0 s1) = { rotationalSpeed := s0[0] ++ s0[1], vehicleSpeed := s0[2] ++ s0[3] }

/-- R33: the mixed-width views of the payload, against the low half of the ENC word. -/
def Obligations.PayloadIsCommandOperand : Prop := ∀ rot veh : BitVec 16,
  let f := txFrame .slot0 (pack rot veh)
  (pack rot veh)[0] ++ (pack rot veh)[1] ++ (pack rot veh)[2] ++ (pack rot veh)[3] =
    (encode (.enc rot veh)).extractLsb 31 0 ∧
  f.data[0] ++ f.data[1] ++ f.data[2] ++ f.data[3] ++ f.data[4] ++ f.data[5] ++ f.data[6] ++ f.data[7] =
    rot ++ veh ++ 0x00000000#32

/-! ### Command port -/

/-- R88: ENC completes when the encoder is IDLE, with exactly the acceptance effects after its CmdResp; so does every
word of its encoding at the command port. -/
def Obligations.EncAcceptedWhenIdle : Prop := ∀ s : State, s.enc.phase = .idle →
  (∀ rot veh : BitVec 16, exec (.enc rot veh) s = .next { s with
    enc := { phase := .send0, buf := pack rot veh, cause0 := s.enc.cause0 },
    events := s.events ++ [.cmdResp 0x01 .ok] }) ∧
  (∀ (p : Params) (cmd : Word), cmd.extractLsb 63 56 = 0x01 → cmd.extractLsb 55 32 = 0 →
    takeTurn p (.host cmd) s = .next { s with
      enc := { phase := .send0, buf := pack (cmd.extractLsb 31 16) (cmd.extractLsb 15 0), cause0 := s.enc.cause0 },
      events := s.events ++ [.cmdResp 0x01 .ok] })

/-- R97: DEC completes when the decoder is IDLE, with exactly the acceptance effects after its CmdResp; so does every
word of its encoding at the command port. -/
def Obligations.DecAcceptedWhenIdle : Prop := ∀ s : State, s.dec.phase = .idle →
  (∀ timeout : BitVec 32, exec (.dec timeout) s = .next { s with
    dec := { phase := .rx0, timeout := timeout, slot0 := zeros 8, slot1 := zeros 8, valid := 0b00,
             cause0 := s.dec.cause0 },
    events := s.events ++ [.cmdResp 0x02 .ok] }) ∧
  (∀ (p : Params) (cmd : Word), cmd.extractLsb 63 56 = 0x02 → cmd.extractLsb 55 32 = 0 →
    takeTurn p (.host cmd) s = .next { s with
      dec := { phase := .rx0, timeout := cmd.extractLsb 31 0, slot0 := zeros 8, slot1 := zeros 8, valid := 0b00,
               cause0 := s.dec.cause0 },
      events := s.events ++ [.cmdResp 0x02 .ok] })

/-- R70 to R72, R75: a command to a busy unit leaves only its CmdResp. -/
def Obligations.BusyCommandIsLost : Prop := ∀ s : State,
  (∀ rot veh, s.enc.phase ≠ .idle →
    exec (.enc rot veh) s = .next { s with events := s.events ++ [.cmdResp 0x01 .unitBusy] }) ∧
  (∀ timeout, s.dec.phase ≠ .idle →
    exec (.dec timeout) s = .next { s with events := s.events ++ [.cmdResp 0x02 .unitBusy] })

/-- R69 to R71: the whole command step, for every word. -/
def Obligations.CommandStepClassifies : Prop := ∀ (p : Params) (cmd : Word) (s : State),
  let op := cmd.extractLsb 63 56
  let respond := fun cause => { s with events := s.events ++ [.cmdResp op cause] }
  takeTurn p (.host cmd) s = .next (
    if op ≠ 0x01 ∧ op ≠ 0x02 then respond .illegalOpcode
    else if cmd.extractLsb 55 32 ≠ 0 then respond .reservedNonzero
    else if op = 0x01 then
      if s.enc.phase ≠ .idle then respond .unitBusy
      else { respond .ok with
        enc := { s.enc with buf := pack (cmd.extractLsb 31 16) (cmd.extractLsb 15 0), phase := .send0 } }
    else
      if s.dec.phase ≠ .idle then respond .unitBusy
      else { respond .ok with
        dec := { s.dec with timeout := cmd.extractLsb 31 0, slot0 := zeros 8, slot1 := zeros 8, valid := 0b00,
                            phase := .rx0 } })

/-- R74: a command neither writes nor reads the other unit, and the two cycles can run at once. -/
def Obligations.CommandsTouchOnlyTheirUnit : Prop := ∀ (s : State) (rot veh : BitVec 16) (timeout : BitVec 32),
  (∃ t, exec (.enc rot veh) s = .next t ∧ t.dec = s.dec ∧
    ∀ d, exec (.enc rot veh) { s with dec := d } = .next { t with dec := d }) ∧
  (∃ t, exec (.dec timeout) s = .next t ∧ t.enc = s.enc ∧
    ∀ e, exec (.dec timeout) { s with enc := e } = .next { t with enc := e }) ∧
  (∀ p, s.enc.phase = .idle → s.dec.phase = .idle →
    ∃ t, runTurns p [.host (encode (.enc rot veh)), .host (encode (.dec timeout))] s = .next t ∧
      t.enc.phase = .send0 ∧ t.dec.phase = .rx0)

/-- R88, R97 and R71 as a frame: whatever a command answers, it makes no transport transaction, appends one CmdResp, and
leaves the schedule alone. -/
def Obligations.CommandFrame : Prop := ∀ (i : Instr) (s : State), ∃ t cause,
  exec i s = .next t ∧ t.events = s.events ++ [.cmdResp (opcodeOf i) cause] ∧
  t.sends = s.sends ∧ t.receives = s.receives ∧ t.schedule = s.schedule ∧ t.drawn = s.drawn ∧
  t.enc.cause0 = s.enc.cause0 ∧ t.dec.cause0 = s.dec.cause0

/-! ### The step -/

/-- R69, R70: a step whose turn is the host's runs the decoded command, after taking the turn off the
schedule (the turn is the model's, log entry 1). -/
def Obligations.StepRunsDecodedCommand : Prop := ∀ (s : State) (cmd : Word) (i : Instr),
  s.nextTurn = .host cmd → decode cmd = .ok i → step s = exec i s.consumeTurn

/-- R44, R69: a word offered through `withFetchWord` is the very next thing the machine runs (how it is offered is the
model's choice, log entry 5). -/
def Obligations.OfferedWordRunsNext : Prop := ∀ (s : State) (nbits w : Nat) (i : Instr),
  decodeTableWord nbits w = some i → step (s.withFetchWord nbits w) = exec i s

/-- R6: a step of a unit or of the reset input (the turns are the model's, log entry 1). -/
def Obligations.StepRunsUnitAndResetTurns : Prop := ∀ s : State,
  (∀ a time, s.nextTurn = .encoder a time → step s = .next (encoderTurn Config.params a time s.consumeTurn)) ∧
  (∀ a time, s.nextTurn = .decoder a time → step s = .next (decoderTurn Config.params a time s.consumeTurn)) ∧
  (s.nextTurn = .reset → step s = .next (resetStep s.consumeTurn))

/-- The machine takes the turns of its schedule one by one, in order. R6 and R129 let any enabled step be next; that the
order comes from a list is the model's choice (log entry 1). -/
def Obligations.ScheduleRunsInOrder : Prop := ∀ (turns rest : List Turn) (s : State),
  Host.Core.run core turns.length { s with schedule := turns ++ rest } =
    runTurns Config.params turns { s with schedule := rest }

/-- R124 to R126: from every state a step answers a next state. -/
def Obligations.EveryStepAnswersNext : Prop := ∀ s : State, ∃ t, step s = .next t

/-! ### Encoder unit -/

/-- R90. -/
def Obligations.SendStepSlot0 : Prop := ∀ (p : Params) (a : SendAnswer) (time : Nat) (s : State),
  s.enc.phase = .send0 →
  let f : Frame := { id := 0x200, ide := 0, rtr := 0, dlc := 8, data := split s.enc.buf .slot0 }
  takeTurn p (.encoder a time) s = .next { s with
    enc := { phase := .send1, buf := s.enc.buf, cause0 := if a = .success then .ok else .sendFailure },
    sends := s.sends ++ [{ frame := f, timeout := p.txTimeout, answer := a }],
    events := s.events ++ [.trace { time := time, side := .tx, dir := if a = .success then .sent else .failed,
                                    label := .slot0, frame := some f }] }

/-- R91. -/
def Obligations.SendStepSlot1 : Prop := ∀ (p : Params) (a : SendAnswer) (time : Nat) (s : State),
  s.enc.phase = .send1 →
  let f : Frame := { id := 0x201, ide := 0, rtr := 0, dlc := 8, data := split s.enc.buf .slot1 }
  takeTurn p (.encoder a time) s = .next { s with
    enc := { phase := .idle, buf := s.enc.buf, cause0 := s.enc.cause0 },
    sends := s.sends ++ [{ frame := f, timeout := p.txTimeout, answer := a }],
    events := s.events ++ [.trace { time := time, side := .tx, dir := if a = .success then .sent else .failed,
                                    label := .slot1, frame := some f },
                           .encDone s.enc.cause0 (if a = .success then .ok else .sendFailure)] }

/-- R89: the encoder has a step exactly in SEND0 and SEND1. That its turn in IDLE leaves the state as it is, is the
model's choice (log entry 2). -/
def Obligations.EncoderStepEnable : Prop := ∀ (p : Params) (a : SendAnswer) (time : Nat) (s : State),
  (s.enc.phase = .idle → takeTurn p (.encoder a time) s = .next s) ∧
  (s.enc.phase ≠ .idle → ∃ t, takeTurn p (.encoder a time) s = .next t ∧ t.sends.length = s.sends.length + 1)

/-- R92, R93, with R95 and R158: an accepted ENC makes exactly the two sends, one after the other, and reports both
outcomes in its one EncDone, whatever the host and the decoder do in between, unless a reset comes first (R143: `m1` and
`m2` hold none). The run is a list of turns (log entry 1). -/
def Obligations.EncodeCycleSendsBothFrames : Prop :=
  ∀ (p : Params) (s : State) (rot veh : BitVec 16) (m1 m2 : List Turn) (a0 a1 : SendAnswer) (time0 time1 : Nat),
  s.enc.phase = .idle → m1.all othersThanEncoder = true → m2.all othersThanEncoder = true →
  ∃ t, runTurns p (.host (encode (.enc rot veh)) :: m1 ++ .encoder a0 time0 :: m2 ++ [.encoder a1 time1]) s = .next t ∧
    t.enc = { phase := .idle, buf := pack rot veh, cause0 := sendCause a0 } ∧
    t.sends = s.sends ++
      [{ frame := { id := 0x200, ide := 0, rtr := 0, dlc := 8, data := split (pack rot veh) .slot0 },
         timeout := p.txTimeout, answer := a0 },
       { frame := { id := 0x201, ide := 0, rtr := 0, dlc := 8, data := split (pack rot veh) .slot1 },
         timeout := p.txTimeout, answer := a1 }] ∧
    t.events.filter isEncDone = s.events.filter isEncDone ++ [.encDone (sendCause a0) (sendCause a1)] ∧
    t.events.getLast? = some (.encDone (sendCause a0) (sendCause a1))

/-! ### Decoder unit -/

/-- R99: the full identifier decides the match, and nothing else of the frame does. -/
def Obligations.MatchOnIdentifierAlone : Prop := ∀ f : Frame,
  (frameMatches f .slot0 = true ↔ f.id = 0x200) ∧ (frameMatches f .slot1 = true ↔ f.id = 0x201) ∧
  ∀ (g : Frame) (k : Slot), g.id = f.id → frameMatches g k = frameMatches f k

/-- R100: the decoder's turn runs the attempt for slot 0 in RX0 and for slot 1 in RX1; and one attempt for either slot,
its transaction, its Trace, its effect on the frame buffer and its cause. -/
def Obligations.AttemptProcedure : Prop := ∀ (p : Params) (time : Nat) (s : State),
  (∀ a, s.dec.phase = .rx0 → takeTurn p (.decoder a time) s = .next { attempt p .slot0 a time s with
    dec := { (attempt p .slot0 a time s).dec with cause0 := receiveCause .slot0 a, phase := .rx1 } }) ∧
  (∀ a, s.dec.phase = .rx1 → takeTurn p (.decoder a time) s = .next { attempt p .slot1 a time s with
    dec := { (attempt p .slot1 a time s).dec with phase := .idle },
    events := (attempt p .slot1 a time s).events ++
      [decDoneEvent (attempt p .slot1 a time s).dec (receiveCause .slot1 a)] }) ∧
  ∀ k : Slot,
  (attempt p k .timeout time s = { s with
      receives := s.receives ++ [{ timeout := s.dec.timeout, answer := .timeout }],
      events := if p.traceRxTimeout then
        s.events ++ [.trace { time := time, side := .rx, dir := .failed, label := k, frame := none }] else s.events } ∧
    receiveCause k .timeout = .receiveTimeout) ∧
  ∀ f : Frame,
    attempt p k (.frame f) time s = { s with
      receives := s.receives ++ [{ timeout := s.dec.timeout, answer := .frame f }],
      events := s.events ++ [.trace { time := time, side := .rx, dir := .received, label := k, frame := some f }],
      dec := if f.id = slotId k then
          match k with
          | .slot0 => { s.dec with slot0 := f.data, valid := s.dec.valid ||| 0b01 }
          | .slot1 => { s.dec with slot1 := f.data, valid := s.dec.valid ||| 0b10 }
        else s.dec } ∧
    receiveCause k (.frame f) = if f.id = slotId k then .ok else .unexpectedIdentifier

/-- R101. -/
def Obligations.ReceiveStepSlot0 : Prop := ∀ (p : Params) (a : ReceiveAnswer) (time : Nat) (s : State),
  s.dec.phase = .rx0 →
  ∃ t, takeTurn p (.decoder a time) s = .next t ∧ t.enc = s.enc ∧ t.sends = s.sends ∧
    t.receives = s.receives ++ [{ timeout := s.dec.timeout, answer := a }] ∧
    t.events = (attempt p .slot0 a time s).events ∧ t.schedule = s.schedule ∧ t.drawn = s.drawn ∧
    (∀ f, a = .frame f → f.id = 0x200 → t.dec = { s.dec with
      slot0 := f.data, valid := s.dec.valid ||| 0b01, cause0 := .ok, phase := .rx1 }) ∧
    (∀ f, a = .frame f → f.id ≠ 0x200 → t.dec = { s.dec with cause0 := .unexpectedIdentifier, phase := .rx1 }) ∧
    (a = .timeout → t.dec = { s.dec with cause0 := .receiveTimeout, phase := .rx1 })

/-- R102, for every tracker value a state can hold. -/
def Obligations.ReceiveStepSlot1 : Prop := ∀ (p : Params) (a : ReceiveAnswer) (time : Nat) (s : State),
  s.dec.phase = .rx1 →
  let after := attempt p .slot1 a time s
  takeTurn p (.decoder a time) s = .next { after with
    dec := { after.dec with phase := .idle },
    events := after.events ++ [
      if after.dec.valid = 0b11 then
        .decDone s.dec.cause0 (receiveCause .slot1 a) .ok (some (extract (assemble after.dec.slot0 after.dec.slot1)))
      else .decDone s.dec.cause0 (receiveCause .slot1 a) .incompleteRecord none] }

/-- R98: the decoder has a step exactly in RX0 and RX1. That its turn in IDLE leaves the state as it is, is the model's
choice (log entry 2). -/
def Obligations.DecoderStepEnable : Prop := ∀ (p : Params) (a : ReceiveAnswer) (time : Nat) (s : State),
  (s.dec.phase = .idle → takeTurn p (.decoder a time) s = .next s) ∧
  (s.dec.phase ≠ .idle → ∃ t, takeTurn p (.decoder a time) s = .next t ∧ t.receives.length = s.receives.length + 1)

/-- R106 and R109, with R104, R107, R108, R111, R158: an accepted DEC makes exactly two receives with its own timeout,
fills exactly the slots whose attempts matched, and reports a record exactly when both did, whatever the host and the
encoder do in between, unless a reset comes first (R143: `m1` and `m2` hold none). The run is a list of turns (log
entry 1). -/
def Obligations.DecodeCycleReportsItsTwoAttempts : Prop :=
  ∀ (p : Params) (s : State) (timeout : BitVec 32) (m1 m2 : List Turn) (a0 a1 : ReceiveAnswer) (time0 time1 : Nat),
  s.dec.phase = .idle → m1.all othersThanDecoder = true → m2.all othersThanDecoder = true →
  ∃ t, runTurns p (.host (encode (.dec timeout)) :: m1 ++ .decoder a0 time0 :: m2 ++ [.decoder a1 time1]) s = .next t ∧
    t.dec.phase = .idle ∧ t.dec.timeout = timeout ∧
    t.receives = s.receives ++ [{ timeout := timeout, answer := a0 }, { timeout := timeout, answer := a1 }] ∧
    (validBit t.dec.valid .slot0 = true ↔ ∃ f, a0 = .frame f ∧ f.id = 0x200) ∧
    (validBit t.dec.valid .slot1 = true ↔ ∃ f, a1 = .frame f ∧ f.id = 0x201) ∧
    t.events.filter isDecDone = s.events.filter isDecDone ++ t.events.getLast?.toList ∧
    (∀ f0 f1, a0 = .frame f0 → a1 = .frame f1 → f0.id = 0x200 → f1.id = 0x201 →
      t.events.getLast? = some (.decDone .ok .ok .ok
        (some { rotationalSpeed := f0.data[0] ++ f0.data[1], vehicleSpeed := f0.data[2] ++ f0.data[3] }))) ∧
    ((¬ ∃ f0 f1, a0 = .frame f0 ∧ a1 = .frame f1 ∧ f0.id = 0x200 ∧ f1.id = 0x201) →
      t.events.getLast? = some (.decDone (receiveCause .slot0 a0) (receiveCause .slot1 a1) .incompleteRecord none))

/-- R112: a frame at the wrong attempt is unexpected and discarded, even if the other attempt waits for it. -/
def Obligations.FrameAtWrongAttemptDiscarded : Prop := ∀ (p : Params) (f : Frame) (time : Nat) (s : State),
  (s.dec.phase = .rx0 → f.id = 0x201 → ∃ t, takeTurn p (.decoder (.frame f) time) s = .next t ∧
    t.dec = { s.dec with cause0 := .unexpectedIdentifier, phase := .rx1 }) ∧
  (s.dec.phase = .rx1 → f.id = 0x200 → ∃ t, takeTurn p (.decoder (.frame f) time) s = .next t ∧
    t.dec = { s.dec with phase := .idle } ∧
    ∃ rec record, t.events.getLast? = some (.decDone s.dec.cause0 .unexpectedIdentifier rec record))

/-- R110, with R103 and R104: a tracker bit rises only by a frame with that slot's identifier, whose data the slot then
holds. -/
def Obligations.SlotAssignmentLaw : Prop := ∀ (p : Params) (turn : Turn) (s t : State) (k : Slot),
  takeTurn p turn s = .next t → validBit s.dec.valid k = false → validBit t.dec.valid k = true →
  ∃ f time, turn = .decoder (.frame f) time ∧ f.id = slotId k ∧ slotOf f.id = some k ∧ slotData t.dec k = f.data

/-- R12 and R16: the only ways the payload register, the slots, the tracker and the latched timeout change. -/
def Obligations.BuffersWrittenOnlyByTheirRules : Prop := ∀ (p : Params) (turn : Turn) (s t : State),
  takeTurn p turn s = .next t → turn ≠ .reset →
  (t.enc.buf ≠ s.enc.buf → s.enc.phase = .idle ∧
    ∃ cmd rot veh, turn = .host cmd ∧ decode cmd = .ok (.enc rot veh) ∧ t.enc.buf = pack rot veh) ∧
  (t.dec.timeout ≠ s.dec.timeout → s.dec.phase = .idle ∧
    ∃ cmd, turn = .host cmd ∧ decode cmd = .ok (.dec t.dec.timeout)) ∧
  (∀ k, slotData t.dec k ≠ slotData s.dec k →
    (∃ f time, turn = .decoder (.frame f) time ∧ f.id = slotId k ∧ slotData t.dec k = f.data) ∨
    (s.dec.phase = .idle ∧ slotData t.dec k = zeros 8 ∧ ∃ cmd timeout, turn = .host cmd ∧ decode cmd = .ok (.dec timeout))) ∧
  (∀ k, validBit s.dec.valid k = true → validBit t.dec.valid k = false →
    s.dec.phase = .idle ∧ ∃ cmd timeout, turn = .host cmd ∧ decode cmd = .ok (.dec timeout))

/-- R155: what the frame buffer and the tracker held before a DEC is accepted makes no difference after it. -/
def Obligations.NoStaleSlotData : Prop :=
  ∀ (s : State) (timeout : BitVec 32) (slot0 slot1 : Bytes 8) (valid : BitVec 2), s.dec.phase = .idle →
  exec (.dec timeout) { s with dec := { s.dec with slot0 := slot0, slot1 := slot1, valid := valid } } =
    exec (.dec timeout) s

/-! ### Events, causes and traces -/

/-- R41: the events of one step of each agent, in their order, after all earlier ones. That an IDLE unit's turn emits
nothing is the model's reading of R89 and R98, which give it no step (log entry 2). -/
def Obligations.EventOrderWithinStep : Prop := ∀ (p : Params) (turn : Turn) (s : State), ∃ t new,
  takeTurn p turn s = .next t ∧ t.events = s.events ++ new ∧
  (∀ cmd, turn = .host cmd → ∃ cause, new = [.cmdResp (cmd.extractLsb 63 56) cause]) ∧
  (∀ a time, turn = .encoder a time →
    (s.enc.phase = .idle ∧ new = []) ∨ (s.enc.phase = .send0 ∧ ∃ tr, new = [.trace tr]) ∨
    (s.enc.phase = .send1 ∧ ∃ tr tx0 tx1, new = [.trace tr, .encDone tx0 tx1])) ∧
  (∀ a time, turn = .decoder a time →
    (s.dec.phase = .idle ∧ new = []) ∨
    (s.dec.phase = .rx0 ∧ ∃ tr : List Trace, tr.length ≤ 1 ∧ new = tr.map .trace) ∨
    (s.dec.phase = .rx1 ∧ ∃ (tr : List Trace) (rx0 rx1 rec : Cause) (record : Option Record),
      tr.length ≤ 1 ∧ new = tr.map .trace ++ [.decDone rx0 rx1 rec record])) ∧
  (turn = .reset → new = [])

/-- R23: the event history is only ever appended to, and nothing reads it. -/
def Obligations.HistoryAppendOnlyAndNeverRead : Prop := ∀ s : State, ∃ t new,
  step s = .next t ∧ t.events = s.events ++ new ∧
  ∀ history, step { s with events := history } = .next { t with events := history ++ new }

/-- R116, R118: emitting a Trace appends it and writes nothing else; each unit step leaves, but for its Trace, what the
step with its Emit(Trace) left out leaves; and the timestamp and the tracing of timeouts change nothing but Traces. -/
def Obligations.TracingChangesNoState : Prop := ∀ (p : Params) (traced : Bool) (time time' : Nat) (s : State),
  (∀ tr, s.emitTrace (some tr) = { s with events := s.events ++ [.trace tr] }) ∧ s.emitTrace none = s ∧
  (∀ a, ∃ t, takeTurn p (.encoder a time) s = .next t ∧
    withoutTraces t = withoutTraces (encoderTurnUntraced p a s)) ∧
  (∀ a, ∃ t, takeTurn p (.decoder a time) s = .next t ∧
    withoutTraces t = withoutTraces (decoderTurnUntraced a s)) ∧
  (∀ a, ∃ t t', takeTurn p (.encoder a time) s = .next t ∧
    takeTurn { p with traceRxTimeout := traced } (.encoder a time') s = .next t' ∧ withoutTraces t = withoutTraces t') ∧
  (∀ a, ∃ t t', takeTurn p (.decoder a time) s = .next t ∧
    takeTurn { p with traceRxTimeout := traced } (.decoder a time') s = .next t' ∧ withoutTraces t = withoutTraces t')

/-- R122: the codes of the causes; 8 to 15 are never produced. -/
def Obligations.CauseCodes : Prop :=
  causeCode .ok = 0 ∧ causeCode .sendFailure = 1 ∧ causeCode .receiveTimeout = 2 ∧
  causeCode .unexpectedIdentifier = 3 ∧ causeCode .incompleteRecord = 4 ∧ causeCode .illegalOpcode = 5 ∧
  causeCode .reservedNonzero = 6 ∧ causeCode .unitBusy = 7 ∧ (∀ c, (causeCode c).toNat < 8) ∧
  ∀ c c', causeCode c = causeCode c' → c = c'

/-- R57 to R60: the fields of the packed words. -/
def Obligations.PackedEventWords : Prop :=
  (∀ opcode cause, (cmdRespWord opcode cause).extractLsb 7 0 = opcode ∧
    (cmdRespWord opcode cause).extractLsb 11 8 = causeCode cause ∧ (cmdRespWord opcode cause).extractLsb 15 12 = 0) ∧
  (∀ tx0 tx1, (encStatusWord tx0 tx1).extractLsb 3 0 = causeCode tx0 ∧
    (encStatusWord tx0 tx1).extractLsb 7 4 = causeCode tx1) ∧
  (∀ rx0 rx1 rec, (decStatusWord rx0 rx1 rec).extractLsb 3 0 = causeCode rx0 ∧
    (decStatusWord rx0 rx1 rec).extractLsb 7 4 = causeCode rx1 ∧
    (decStatusWord rx0 rx1 rec).extractLsb 11 8 = causeCode rec ∧ (decStatusWord rx0 rx1 rec).extractLsb 15 12 = 0) ∧
  (∀ r, (recDataWord r).extractLsb 31 16 = r.rotationalSpeed ∧ (recDataWord r).extractLsb 15 0 = r.vehicleSpeed) ∧
  (∀ rx0 rx1 rec record, (eventRecData (.decDone rx0 rx1 rec record) = none ↔ record = none))

/-- R62 to R64: the codes and strings of a Trace's fields. "Part 2" is what R64 marks as the spec's own extrapolation
(D15; log entry 11). -/
def Obligations.TraceFieldCodes : Prop :=
  directionCode .sent = 0 ∧ directionCode .received = 1 ∧ directionCode .failed = 2 ∧ (∀ d, directionCode d ≠ 3) ∧
  directionText .sent = "Sent" ∧ directionText .received = "Received" ∧ directionText .failed = "Failed" ∧
  sideCode .tx = 0 ∧ sideCode .rx = 1 ∧ labelCode .slot0 = 0 ∧ labelCode .slot1 = 1 ∧
  labelText .slot0 = "Part 1" ∧ labelText .slot1 = "Part 2"

/-- R121: the time split of a rendered line; hours do not wrap. -/
def Obligations.RenderedTimeSplit : Prop := ∀ t : Trace,
  (renderTrace t).hours = t.time / 3600000 ∧ (renderTrace t).minutes = t.time / 60000 % 60 ∧
  (renderTrace t).seconds = t.time / 1000 % 60 ∧ (renderTrace t).milliseconds = t.time % 1000 ∧
  (renderTrace t).hours * 3600000 + (renderTrace t).minutes * 60000 + (renderTrace t).seconds * 1000 +
    (renderTrace t).milliseconds = t.time

/-! ### Reset -/

/-- R24: the reset value of each of the nine elements. -/
def Obligations.ResetValues : Prop :=
  State.reset.enc.phase = .idle ∧ State.reset.enc.buf = zeros 16 ∧ State.reset.enc.cause0 = .ok ∧
  State.reset.dec.phase = .idle ∧ State.reset.dec.timeout = 0x00000000 ∧ State.reset.dec.slot0 = zeros 8 ∧
  State.reset.dec.slot1 = zeros 8 ∧ State.reset.dec.valid = 0b00 ∧ State.reset.dec.cause0 = .ok ∧
  causeCode State.reset.enc.cause0 = 0 ∧ causeCode State.reset.dec.cause0 = 0 ∧
  ∀ (p : Params) (s : State), ∃ t, takeTurn p .reset s = .next t ∧ t.enc = State.reset.enc ∧ t.dec = State.reset.dec

/-- R142, with R141 and R145: a reset step from any state, its whole effect. -/
def Obligations.ResetStepEffects : Prop := ∀ (p : Params) (s : State),
  takeTurn p .reset s = .next { s with
    enc := { phase := .idle, buf := zeros 16, cause0 := .ok },
    dec := { phase := .idle, timeout := 0, slot0 := zeros 8, slot1 := zeros 8, valid := 0b00, cause0 := .ok } }

/-- R143, R156: after a reset no turn of a unit emits anything more for the cycles it abandoned: both
units are IDLE, and the turn of an IDLE unit changes nothing (log entry 2). -/
def Obligations.ResetAbandonsCycles : Prop := ∀ (p : Params) (turns : List Turn) (s : State),
  turns.all unitTurn = true →
  ∃ t, runTurns p (.reset :: turns) s = .next t ∧ t.events = s.events ∧ t.sends = s.sends ∧ t.receives = s.receives

/-! ### Rules of the whole machine -/

/-- R26 item by item, with R13, R18, R56: every step keeps the state invariant. -/
def Obligations.StepKeepsStateInvariant : Prop := ∀ s t : State, StateInv s → step s = .next t → StateInv t

/-- R53, R57 to R60 and R87 of all that was ever sent or reported: every step keeps the histories lawful. -/
def Obligations.StepKeepsHistoriesLawful : Prop := ∀ s t : State, HistoryInv s → step s = .next t → HistoryInv t

/-- R24, R26: the reset state meets the invariants. The empty histories at reset are the model's choice (log entry 4). -/
def Obligations.ResetMeetsInvariants : Prop := StateInv State.reset ∧ HistoryInv State.reset

/-- R8, R74, R138: what belongs to a unit is the same whether or not the other unit's turns and commands take place. A
run is a list of turns (log entry 1). -/
def Obligations.UnitsAreIsolated : Prop := ∀ (p : Params) (turns : List Turn) (s : State), ∃ t te td,
  runTurns p turns s = .next t ∧
  runTurns p (turns.filter concernsEncoder) s = .next te ∧ encoderView t = encoderView te ∧
  runTurns p (turns.filter concernsDecoder) s = .next td ∧ decoderView t = decoderView td

/-- R19: each phase stays, or advances by one position, or is reset. -/
def Obligations.PhasesAdvanceInOrder : Prop := ∀ (p : Params) (turn : Turn) (s t : State),
  takeTurn p turn s = .next t → turn ≠ .reset →
  (t.enc.phase = s.enc.phase ∨ (s.enc.phase = .idle ∧ t.enc.phase = .send0) ∨
    (s.enc.phase = .send0 ∧ t.enc.phase = .send1) ∨ (s.enc.phase = .send1 ∧ t.enc.phase = .idle)) ∧
  (t.dec.phase = s.dec.phase ∨ (s.dec.phase = .idle ∧ t.dec.phase = .rx0) ∨
    (s.dec.phase = .rx0 ∧ t.dec.phase = .rx1) ∨ (s.dec.phase = .rx1 ∧ t.dec.phase = .idle))

/-- R6, R9: a step makes at most one transport transaction, the encoder's only on the transmit port and the decoder's
only on the receive port. -/
def Obligations.AtMostOneTransactionPerStep : Prop := ∀ (p : Params) (turn : Turn) (s : State), ∃ t sent received,
  takeTurn p turn s = .next t ∧ t.sends = s.sends ++ sent ∧ t.receives = s.receives ++ received ∧
  sent.length + received.length ≤ 1 ∧ (sent ≠ [] → encoderTurns turn = true) ∧ (received ≠ [] → decoderTurns turn = true)

/-- R149, with R76, R89, R98, R140: with both units IDLE and no further command or reset, nothing changes any
more (an IDLE unit's turn is log entry 2). -/
def Obligations.IdleBlockStaysAsItIs : Prop := ∀ (p : Params) (turns : List Turn) (s : State),
  s.enc.phase = .idle → s.dec.phase = .idle → turns.all unitTurn = true → runTurns p turns s = .next s

/-- R159: a busy unit that is given two turns before any reset reports its completion. A run is a list of turns (log
entry 1). -/
def Obligations.BusyUnitCompletesInTwoTurns : Prop := ∀ (p : Params) (turns : List Turn) (s : State),
  Turn.reset ∉ turns → ∃ t new, runTurns p turns s = .next t ∧ t.events = s.events ++ new ∧
  (s.enc.phase ≠ .idle → 2 ≤ turns.countP encoderTurns → ∃ tx0 tx1, Event.encDone tx0 tx1 ∈ new) ∧
  (s.dec.phase ≠ .idle → 2 ≤ turns.countP decoderTurns → ∃ rx0 rx1 rec record, Event.decDone rx0 rx1 rec record ∈ new)
end

