-- ==== Sys2Proof/Laws/Encoding.lean ====
section
/-! SUPPORT. The fields of a word put together from its fields, and back. -/

namespace Sys2Proof

theorem opcodeField_word (op : BitVec 8) (r : BitVec 24) (x : BitVec 32) :
    (op ++ r ++ x).extractLsb' 56 8 = op := by
  apply BitVec.eq_of_getLsbD_eq
  intro j hj
  simp only [BitVec.getLsbD_extractLsb', BitVec.getLsbD_append, hj]
  simp [show ¬ (56 + j < 32) by omega, show ¬ (56 + j - 32 < 24) by omega, show 56 + j - 32 - 24 = j by omega]

theorem rsvField_word (op : BitVec 8) (r : BitVec 24) (x : BitVec 32) :
    (op ++ r ++ x).extractLsb' 32 24 = r := by
  apply BitVec.eq_of_getLsbD_eq
  intro j hj
  simp only [BitVec.getLsbD_extractLsb', BitVec.getLsbD_append, hj]
  simp [show 32 + j - 32 = j by omega]
  omega

theorem operandField_word (op : BitVec 8) (r : BitVec 24) (x : BitVec 32) :
    (op ++ r ++ x).extractLsb' 0 32 = x := by
  apply BitVec.eq_of_getLsbD_eq
  intro j hj
  simp only [BitVec.getLsbD_extractLsb', BitVec.getLsbD_append, hj]
  simp
  omega

/-- A word is its opcode field, its reserved field and its operand. -/
theorem word_of_fields (cmd : Word) :
    (cmd.extractLsb' 56 8 ++ cmd.extractLsb' 32 24 ++ cmd.extractLsb' 0 32 : BitVec (8 + 24 + 32)) = cmd := by
  apply BitVec.eq_of_getLsbD_eq
  intro j hj
  simp only [BitVec.getLsbD_append, BitVec.getLsbD_extractLsb']
  by_cases h : j < 32
  · simp [h]
  · by_cases h' : j - 32 < 24
    · simp [h, h', show 32 + (j - 32) = j by omega]
    · simp [h, h', show 56 + (j - 32 - 24) = j by omega, show j - 32 - 24 < 8 by omega]

theorem high_of_append (a b : BitVec 16) : (a ++ b).extractLsb' 16 16 = a := by
  apply BitVec.eq_of_getLsbD_eq
  intro j hj
  simp only [BitVec.getLsbD_extractLsb', BitVec.getLsbD_append, hj]
  simp [show 16 + j - 16 = j by omega]

theorem low_of_append (a b : BitVec 16) : (a ++ b).extractLsb' 0 16 = b := by
  apply BitVec.eq_of_getLsbD_eq
  intro j hj
  simp only [BitVec.getLsbD_extractLsb', BitVec.getLsbD_append, hj]
  simp
  omega

/-- The operand of ENC, from the word's own fields. -/
theorem rot_veh_operand (cmd : Word) :
    (cmd.extractLsb' 16 16 ++ cmd.extractLsb' 0 16 : BitVec (16 + 16)) = cmd.extractLsb' 0 32 := by
  apply BitVec.eq_of_getLsbD_eq
  intro j hj
  simp only [BitVec.getLsbD_append, BitVec.getLsbD_extractLsb']
  by_cases h : j < 16
  · simp [h, show j < 32 by omega]
  · simp [h, show 16 + (j - 16) = j by omega, show j - 16 < 16 by omega, show j < 32 by omega]

/-- A sub-field of the operand, read from the whole word. -/
theorem extractLsb'_operand (op : BitVec 8) (r : BitVec 24) (x : BitVec 32) (start len : Nat) (h : start + len ≤ 32) :
    (op ++ r ++ x).extractLsb' start len = x.extractLsb' start len := by
  apply BitVec.eq_of_getLsbD_eq
  intro j hj
  simp only [BitVec.getLsbD_extractLsb', BitVec.getLsbD_append, hj]
  simp [show start + j < 32 by omega]

end Sys2Proof
end

