-- ==== Sys2Proof/Laws/PerInstr.lean ====
section
/-! SUPPORT. Facts made per command: the fixed fields of its word. -/

namespace Sys2Proof.Laws.FixedFields

/-- The word of a command has its opcode in bits 63 to 56, zero in the reserved bits 55 to 32, and its operand in bits
31 to 0 (R46). -/
def Statement (i : Instr) : Prop :=
  i.wellFormed = true ∧ (encode i).extractLsb 63 56 = opcodeOf i ∧ (encode i).extractLsb 55 32 = 0 ∧
    (encode i).extractLsb 31 0 = operandOf i

theorem enc (rot veh : BitVec 16) : Statement (.enc rot veh) :=
  ⟨rfl, opcodeField_word _ _ _, rsvField_word _ _ _, operandField_word _ _ _⟩

theorem dec (timeout : BitVec 32) : Statement (.dec timeout) :=
  ⟨rfl, opcodeField_word _ _ _, rsvField_word _ _ _, operandField_word _ _ _⟩

end Sys2Proof.Laws.FixedFields
end

