-- ==== Sys2Proof/Laws/Serializer.lean ====
section
/-! SUPPORT. What the serializer functions put where, byte by byte. -/

namespace Sys2Proof.Machine

@[simp] theorem getElem_zeros (n i : Nat) (h : i < n) : (zeros n)[i] = 0 := by simp [zeros]

theorem split_slot0_getElem (L : Bytes 16) (i : Nat) (h : i < 8) : (split L .slot0)[i] = L[i] := by simp [split]

theorem split_slot1_getElem (L : Bytes 16) (i : Nat) (h : i < 8) : (split L .slot1)[i] = L[8 + i] := by simp [split]

theorem assemble_getElem_low (s0 s1 : Bytes 8) (i : Nat) (h : i < 8) : (assemble s0 s1)[i] = s0[i] := by
  simp only [assemble]
  exact Vector.getElem_append_left h

theorem assemble_getElem_high (s0 s1 : Bytes 8) (i : Nat) (h : i < 8) : (assemble s0 s1)[8 + i] = s1[i] := by
  simp only [assemble]
  rw [Vector.getElem_append_right (by omega) (by omega)]
  simp

theorem pack_reserved (rot veh : BitVec 16) (i : Nat) (h : i < 16) (h4 : 4 ≤ i) : (pack rot veh)[i] = 0 := by
  obtain ⟨j, rfl⟩ := Nat.exists_eq_add_of_le h4
  have hj : j < 12 := by omega
  interval_cases j <;> rfl

@[simp] theorem slotId_ne : slotId .slot0 ≠ slotId .slot1 := by decide

theorem frameMatches_iff (f : Frame) (k : Slot) : frameMatches f k = true ↔ f.id = slotId k := by
  simp [frameMatches]

end Sys2Proof.Machine
end

