-- ==== Sys2Proof/Laws/State.lean ====
section
/-! SUPPORT. The fields of each state update, one lemma per field per update. -/

namespace Sys2Proof.Machine

/-! ### Emit -/

@[simp] theorem State.emit_enc (e : Event) (s : State) :
    (s.emit e).enc = s.enc := rfl

@[simp] theorem State.emit_dec (e : Event) (s : State) :
    (s.emit e).dec = s.dec := rfl

@[simp] theorem State.emit_events (e : Event) (s : State) :
    (s.emit e).events = s.events ++ [e] := rfl

@[simp] theorem State.emit_sends (e : Event) (s : State) :
    (s.emit e).sends = s.sends := rfl

@[simp] theorem State.emit_receives (e : Event) (s : State) :
    (s.emit e).receives = s.receives := rfl

@[simp] theorem State.emit_schedule (e : Event) (s : State) :
    (s.emit e).schedule = s.schedule := rfl

@[simp] theorem State.emit_drawn (e : Event) (s : State) :
    (s.emit e).drawn = s.drawn := rfl

/-! ### CmdResp -/

@[simp] theorem State.respond_enc (op : BitVec 8) (c : Cause) (s : State) :
    (s.respond op c).enc = s.enc := rfl

@[simp] theorem State.respond_dec (op : BitVec 8) (c : Cause) (s : State) :
    (s.respond op c).dec = s.dec := rfl

@[simp] theorem State.respond_events (op : BitVec 8) (c : Cause) (s : State) :
    (s.respond op c).events = s.events ++ [.cmdResp op c] := rfl

@[simp] theorem State.respond_sends (op : BitVec 8) (c : Cause) (s : State) :
    (s.respond op c).sends = s.sends := rfl

@[simp] theorem State.respond_receives (op : BitVec 8) (c : Cause) (s : State) :
    (s.respond op c).receives = s.receives := rfl

@[simp] theorem State.respond_schedule (op : BitVec 8) (c : Cause) (s : State) :
    (s.respond op c).schedule = s.schedule := rfl

@[simp] theorem State.respond_drawn (op : BitVec 8) (c : Cause) (s : State) :
    (s.respond op c).drawn = s.drawn := rfl

/-! ### Send -/

@[simp] theorem State.send_enc (f : Frame) (t : BitVec 32) (a : SendAnswer) (s : State) :
    (s.send f t a).enc = s.enc := rfl

@[simp] theorem State.send_dec (f : Frame) (t : BitVec 32) (a : SendAnswer) (s : State) :
    (s.send f t a).dec = s.dec := rfl

@[simp] theorem State.send_events (f : Frame) (t : BitVec 32) (a : SendAnswer) (s : State) :
    (s.send f t a).events = s.events := rfl

@[simp] theorem State.send_sends (f : Frame) (t : BitVec 32) (a : SendAnswer) (s : State) :
    (s.send f t a).sends = s.sends ++ [{ frame := f, timeout := t, answer := a }] := rfl

@[simp] theorem State.send_receives (f : Frame) (t : BitVec 32) (a : SendAnswer) (s : State) :
    (s.send f t a).receives = s.receives := rfl

@[simp] theorem State.send_schedule (f : Frame) (t : BitVec 32) (a : SendAnswer) (s : State) :
    (s.send f t a).schedule = s.schedule := rfl

@[simp] theorem State.send_drawn (f : Frame) (t : BitVec 32) (a : SendAnswer) (s : State) :
    (s.send f t a).drawn = s.drawn := rfl

/-! ### Receive -/

@[simp] theorem State.receive_enc (a : ReceiveAnswer) (s : State) :
    (s.receive a).enc = s.enc := rfl

@[simp] theorem State.receive_dec (a : ReceiveAnswer) (s : State) :
    (s.receive a).dec = s.dec := rfl

@[simp] theorem State.receive_events (a : ReceiveAnswer) (s : State) :
    (s.receive a).events = s.events := rfl

@[simp] theorem State.receive_sends (a : ReceiveAnswer) (s : State) :
    (s.receive a).sends = s.sends := rfl

@[simp] theorem State.receive_receives (a : ReceiveAnswer) (s : State) :
    (s.receive a).receives = s.receives ++ [{ timeout := s.dec.timeout, answer := a }] := rfl

@[simp] theorem State.receive_schedule (a : ReceiveAnswer) (s : State) :
    (s.receive a).schedule = s.schedule := rfl

@[simp] theorem State.receive_drawn (a : ReceiveAnswer) (s : State) :
    (s.receive a).drawn = s.drawn := rfl

/-! ### Reset step -/

@[simp] theorem resetStep_enc (s : State) :
    (resetStep s).enc = EncUnit.reset := rfl

@[simp] theorem resetStep_dec (s : State) :
    (resetStep s).dec = DecUnit.reset := rfl

@[simp] theorem resetStep_events (s : State) :
    (resetStep s).events = s.events := rfl

@[simp] theorem resetStep_sends (s : State) :
    (resetStep s).sends = s.sends := rfl

@[simp] theorem resetStep_receives (s : State) :
    (resetStep s).receives = s.receives := rfl

@[simp] theorem resetStep_schedule (s : State) :
    (resetStep s).schedule = s.schedule := rfl

@[simp] theorem resetStep_drawn (s : State) :
    (resetStep s).drawn = s.drawn := rfl

/-! ### ENC acceptance -/

@[simp] theorem encAccept_enc (rot veh : BitVec 16) (s : State) :
    (encAccept rot veh s).enc = { s.enc with buf := pack rot veh, phase := .send0 } := rfl

@[simp] theorem encAccept_dec (rot veh : BitVec 16) (s : State) :
    (encAccept rot veh s).dec = s.dec := rfl

@[simp] theorem encAccept_events (rot veh : BitVec 16) (s : State) :
    (encAccept rot veh s).events = s.events := rfl

@[simp] theorem encAccept_sends (rot veh : BitVec 16) (s : State) :
    (encAccept rot veh s).sends = s.sends := rfl

@[simp] theorem encAccept_receives (rot veh : BitVec 16) (s : State) :
    (encAccept rot veh s).receives = s.receives := rfl

@[simp] theorem encAccept_schedule (rot veh : BitVec 16) (s : State) :
    (encAccept rot veh s).schedule = s.schedule := rfl

@[simp] theorem encAccept_drawn (rot veh : BitVec 16) (s : State) :
    (encAccept rot veh s).drawn = s.drawn := rfl

/-! ### DEC acceptance -/

@[simp] theorem decAccept_enc (timeout : BitVec 32) (s : State) :
    (decAccept timeout s).enc = s.enc := rfl

@[simp] theorem decAccept_dec (timeout : BitVec 32) (s : State) :
    (decAccept timeout s).dec = { s.dec with timeout := timeout, slot0 := zeros 8, slot1 := zeros 8, valid := 0b00, phase := .rx0 } := rfl

@[simp] theorem decAccept_events (timeout : BitVec 32) (s : State) :
    (decAccept timeout s).events = s.events := rfl

@[simp] theorem decAccept_sends (timeout : BitVec 32) (s : State) :
    (decAccept timeout s).sends = s.sends := rfl

@[simp] theorem decAccept_receives (timeout : BitVec 32) (s : State) :
    (decAccept timeout s).receives = s.receives := rfl

@[simp] theorem decAccept_schedule (timeout : BitVec 32) (s : State) :
    (decAccept timeout s).schedule = s.schedule := rfl

@[simp] theorem decAccept_drawn (timeout : BitVec 32) (s : State) :
    (decAccept timeout s).drawn = s.drawn := rfl

/-! ### Trace -/

@[simp] theorem State.emitTrace_enc (t : Option Trace) (s : State) :
    (s.emitTrace t).enc = s.enc := by cases t <;> rfl

@[simp] theorem State.emitTrace_dec (t : Option Trace) (s : State) :
    (s.emitTrace t).dec = s.dec := by cases t <;> rfl

theorem State.emitTrace_events (t : Option Trace) (s : State) :
    (s.emitTrace t).events = s.events ++ t.toList.map .trace := by cases t <;> simp [State.emitTrace]

@[simp] theorem State.emitTrace_sends (t : Option Trace) (s : State) :
    (s.emitTrace t).sends = s.sends := by cases t <;> rfl

@[simp] theorem State.emitTrace_receives (t : Option Trace) (s : State) :
    (s.emitTrace t).receives = s.receives := by cases t <;> rfl

@[simp] theorem State.emitTrace_schedule (t : Option Trace) (s : State) :
    (s.emitTrace t).schedule = s.schedule := by cases t <;> rfl

@[simp] theorem State.emitTrace_drawn (t : Option Trace) (s : State) :
    (s.emitTrace t).drawn = s.drawn := by cases t <;> rfl

/-! ### Taking the next turn -/

@[simp] theorem State.consumeTurn_enc (s : State) : s.consumeTurn.enc = s.enc := by
  unfold State.consumeTurn; split <;> rfl

@[simp] theorem State.consumeTurn_dec (s : State) : s.consumeTurn.dec = s.dec := by
  unfold State.consumeTurn; split <;> rfl

@[simp] theorem State.consumeTurn_events (s : State) : s.consumeTurn.events = s.events := by
  unfold State.consumeTurn; split <;> rfl

@[simp] theorem State.consumeTurn_sends (s : State) : s.consumeTurn.sends = s.sends := by
  unfold State.consumeTurn; split <;> rfl

@[simp] theorem State.consumeTurn_receives (s : State) : s.consumeTurn.receives = s.receives := by
  unfold State.consumeTurn; split <;> rfl

theorem State.nextTurn_of_schedule {s : State} {turn : Turn} {rest : List Turn} (h : s.schedule = turn :: rest) :
    s.nextTurn = turn := by simp [State.nextTurn, h]

theorem State.consumeTurn_of_schedule {s : State} {turn : Turn} {rest : List Turn} (h : s.schedule = turn :: rest) :
    s.consumeTurn = { s with schedule := rest } := by simp [State.consumeTurn, h]

theorem State.nextTurn_of_empty {s : State} (h : s.schedule = []) : s.nextTurn = Config.freeTurn s.drawn := by
  simp [State.nextTurn, h]

theorem State.consumeTurn_of_empty {s : State} (h : s.schedule = []) :
    s.consumeTurn = { s with drawn := s.drawn + 1 } := by simp [State.consumeTurn, h]

end Sys2Proof.Machine
end

