-- ==== Sys2Proof/Laws/Units.lean ====
section
/-! SUPPORT. What each shared operation and each turn can do, said once: cite these, do not unfold. -/

namespace Sys2Proof.Machine

/-! ### Tracker and frame buffer -/

theorem validBit_setValid_self (v : BitVec 2) (k : Slot) : validBit (setValid v k) k = true := by
  cases k <;> simp [validBit, setValid, slotIndex]

theorem validBit_setValid_of_ne (v : BitVec 2) {k j : Slot} (h : j ≠ k) :
    validBit (setValid v k) j = validBit v j := by
  cases k <;> cases j <;> simp_all [validBit, setValid, slotIndex]

theorem bothFilled_iff (v : BitVec 2) :
    bothFilled v = true ↔ validBit v .slot0 = true ∧ validBit v .slot1 = true := by
  revert v; decide

/-- A receive answer either is a frame that matches, which fills the slot, or leaves the decoder as it is. -/
theorem storeAnswer_cases (k : Slot) (a : ReceiveAnswer) (d : DecUnit) :
    (∃ f, a = .frame f ∧ f.id = slotId k ∧ storeAnswer k a d = fillSlot k f.data d ∧ receiveCause k a = .ok) ∨
    (storeAnswer k a d = d ∧ receiveCause k a ≠ .ok ∧ ∀ f, a = .frame f → f.id ≠ slotId k) := by
  cases a with
  | timeout => exact .inr ⟨rfl, by simp [receiveCause], by simp⟩
  | frame f =>
    by_cases h : f.id = slotId k
    · exact .inl ⟨f, rfl, h, by simp [storeAnswer, frameMatches, h], by simp [receiveCause, frameMatches, h]⟩
    · exact .inr ⟨by simp [storeAnswer, frameMatches, h], by simp [receiveCause, frameMatches, h], by simp [h]⟩

theorem receiveCause_cases (k : Slot) (a : ReceiveAnswer) :
    receiveCause k a = .ok ∨ receiveCause k a = .receiveTimeout ∨ receiveCause k a = .unexpectedIdentifier := by
  cases a with
  | timeout => simp [receiveCause]
  | frame f => by_cases h : frameMatches f k <;> simp [receiveCause, h]

theorem sendCause_cases (a : SendAnswer) : sendCause a = .ok ∨ sendCause a = .sendFailure := by
  cases a <;> simp [sendCause]

theorem fillSlot_slotData (k : Slot) (b : Bytes 8) (d : DecUnit) : slotData (fillSlot k b d) k = b := by
  cases k <;> rfl

theorem fillSlot_slotData_of_ne {k j : Slot} (b : Bytes 8) (d : DecUnit) (h : j ≠ k) :
    slotData (fillSlot k b d) j = slotData d j := by
  cases k <;> cases j <;> first | rfl | exact absurd rfl h

@[simp] theorem fillSlot_phase (k : Slot) (b : Bytes 8) (d : DecUnit) : (fillSlot k b d).phase = d.phase := by
  cases k <;> rfl

@[simp] theorem fillSlot_timeout (k : Slot) (b : Bytes 8) (d : DecUnit) : (fillSlot k b d).timeout = d.timeout := by
  cases k <;> rfl

@[simp] theorem fillSlot_cause0 (k : Slot) (b : Bytes 8) (d : DecUnit) : (fillSlot k b d).cause0 = d.cause0 := by
  cases k <;> rfl

@[simp] theorem fillSlot_valid (k : Slot) (b : Bytes 8) (d : DecUnit) :
    (fillSlot k b d).valid = setValid d.valid k := by
  cases k <;> rfl

@[simp] theorem storeAnswer_phase (k : Slot) (a : ReceiveAnswer) (d : DecUnit) :
    (storeAnswer k a d).phase = d.phase := by
  rcases storeAnswer_cases k a d with ⟨f, _, _, h, _⟩ | ⟨h, _⟩ <;> simp [h]

@[simp] theorem storeAnswer_timeout (k : Slot) (a : ReceiveAnswer) (d : DecUnit) :
    (storeAnswer k a d).timeout = d.timeout := by
  rcases storeAnswer_cases k a d with ⟨f, _, _, h, _⟩ | ⟨h, _⟩ <;> simp [h]

@[simp] theorem storeAnswer_cause0 (k : Slot) (a : ReceiveAnswer) (d : DecUnit) :
    (storeAnswer k a d).cause0 = d.cause0 := by
  rcases storeAnswer_cases k a d with ⟨f, _, _, h, _⟩ | ⟨h, _⟩ <;> simp [h]

/-! ### The attempts -/

/-- A send attempt, whole. -/
theorem sendAttempt_eq (p : Params) (k : Slot) (a : SendAnswer) (time : Nat) (s : State) :
    sendAttempt p k a time s = { s with
      sends := s.sends ++ [{ frame := txFrame k s.enc.buf, timeout := p.txTimeout, answer := a }],
      events := s.events ++ [.trace (sendTrace k (txFrame k s.enc.buf) a time)] } := rfl

/-- A receive attempt, whole. -/
theorem attempt_eq (p : Params) (k : Slot) (a : ReceiveAnswer) (time : Nat) (s : State) :
    attempt p k a time s = { s with
      receives := s.receives ++ [{ timeout := s.dec.timeout, answer := a }],
      events := s.events ++ (receiveTrace p k a time).toList.map .trace,
      dec := storeAnswer k a s.dec } := by
  unfold attempt
  cases receiveTrace p k a time <;> simp [State.emitTrace, State.emit, State.receive]

/-- A DecDone event, whole: the record is there exactly when both slots are filled. -/
theorem decDoneEvent_eq (d : DecUnit) (rx1 : Cause) :
    decDoneEvent d rx1 = .decDone d.cause0 rx1 (if bothFilled d.valid then .ok else .incompleteRecord)
      (if bothFilled d.valid then some (extract (assemble d.slot0 d.slot1)) else none) := by
  unfold decDoneEvent; split <;> rfl

/-- What the Trace of a receive attempt says, if there is one. -/
theorem receiveTrace_cases (p : Params) (k : Slot) (a : ReceiveAnswer) (time : Nat) :
    (∃ f, a = .frame f ∧ receiveTrace p k a time =
      some { time := time, side := .rx, dir := .received, label := k, frame := some f }) ∨
    (a = .timeout ∧ p.traceRxTimeout = true ∧ receiveTrace p k a time =
      some { time := time, side := .rx, dir := .failed, label := k, frame := none }) ∨
    (a = .timeout ∧ p.traceRxTimeout = false ∧ receiveTrace p k a time = none) := by
  cases a with
  | frame f => exact .inl ⟨f, rfl, rfl⟩
  | timeout => cases h : p.traceRxTimeout <;> simp [receiveTrace, h]

/-! ### The unit steps, whole -/

theorem sendStep0_eq (p : Params) (a : SendAnswer) (time : Nat) (s : State) :
    sendStep0 p a time s = { s with
      enc := { s.enc with cause0 := sendCause a, phase := .send1 },
      sends := s.sends ++ [{ frame := txFrame .slot0 s.enc.buf, timeout := p.txTimeout, answer := a }],
      events := s.events ++ [.trace (sendTrace .slot0 (txFrame .slot0 s.enc.buf) a time)] } := rfl

theorem sendStep1_eq (p : Params) (a : SendAnswer) (time : Nat) (s : State) :
    sendStep1 p a time s = { s with
      enc := { s.enc with phase := .idle },
      sends := s.sends ++ [{ frame := txFrame .slot1 s.enc.buf, timeout := p.txTimeout, answer := a }],
      events := s.events ++ [.trace (sendTrace .slot1 (txFrame .slot1 s.enc.buf) a time),
        .encDone s.enc.cause0 (sendCause a)] } := by
  simp [sendStep1, sendAttempt_eq, State.emit]

theorem receiveStep0_eq (p : Params) (a : ReceiveAnswer) (time : Nat) (s : State) :
    receiveStep0 p a time s = { s with
      dec := { storeAnswer .slot0 a s.dec with cause0 := receiveCause .slot0 a, phase := .rx1 },
      receives := s.receives ++ [{ timeout := s.dec.timeout, answer := a }],
      events := s.events ++ (receiveTrace p .slot0 a time).toList.map .trace } := by
  simp [receiveStep0, attempt_eq]

theorem receiveStep1_eq (p : Params) (a : ReceiveAnswer) (time : Nat) (s : State) :
    receiveStep1 p a time s = { s with
      dec := { storeAnswer .slot1 a s.dec with phase := .idle },
      receives := s.receives ++ [{ timeout := s.dec.timeout, answer := a }],
      events := s.events ++ ((receiveTrace p .slot1 a time).toList.map .trace ++
        [decDoneEvent (storeAnswer .slot1 a s.dec) (receiveCause .slot1 a)]) } := by
  simp [receiveStep1, attempt_eq, State.emit]

/-! ### The turns -/

theorem encoderTurn_cases (p : Params) (a : SendAnswer) (time : Nat) (s : State) :
    (s.enc.phase = .idle ∧ encoderTurn p a time s = s) ∨
    (s.enc.phase = .send0 ∧ encoderTurn p a time s = sendStep0 p a time s) ∨
    (s.enc.phase = .send1 ∧ encoderTurn p a time s = sendStep1 p a time s) := by
  cases h : s.enc.phase <;> simp [encoderTurn, h]

theorem decoderTurn_cases (p : Params) (a : ReceiveAnswer) (time : Nat) (s : State) :
    (s.dec.phase = .idle ∧ decoderTurn p a time s = s) ∨
    (s.dec.phase = .rx0 ∧ decoderTurn p a time s = receiveStep0 p a time s) ∨
    (s.dec.phase = .rx1 ∧ decoderTurn p a time s = receiveStep1 p a time s) := by
  cases h : s.dec.phase <;> simp [decoderTurn, h]

theorem execEnc_cases (rot veh : BitVec 16) (s : State) :
    (s.enc.phase ≠ .idle ∧ execEnc rot veh s = .next (s.respond opcodeEnc .unitBusy)) ∨
    (s.enc.phase = .idle ∧ execEnc rot veh s = .next (encAccept rot veh (s.respond opcodeEnc .ok))) := by
  by_cases h : s.enc.phase = .idle <;> simp [execEnc, encBusy, h]

theorem execDec_cases (timeout : BitVec 32) (s : State) :
    (s.dec.phase ≠ .idle ∧ execDec timeout s = .next (s.respond opcodeDec .unitBusy)) ∨
    (s.dec.phase = .idle ∧ execDec timeout s = .next (decAccept timeout (s.respond opcodeDec .ok))) := by
  by_cases h : s.dec.phase = .idle <;> simp [execDec, decBusy, h]

/-- Everything a command step can do. -/
theorem commandStep_cases (cmd : Word) (s : State) :
    (∃ e, decode cmd = .error e ∧
      commandStep cmd s = .next (s.respond (opcodeField cmd) (decodeErrorCause e))) ∨
    (∃ i, decode cmd = .ok i ∧ commandStep cmd s = exec i s) := by
  cases h : decode cmd <;> simp [commandStep, h]

end Sys2Proof.Machine
end

