-- ==== Sys2Proof/Laws/Step.lean ====
section
/-! SUPPORT. Runs: one step of the host's runner, and the runs under a list of turns. -/

namespace Sys2Proof.Safety

open Sys2Proof.Machine

/-- A run of a machine takes one step and goes on. -/
theorem run_succ (M : Host.Core) (k : Nat) {s t : M.State} (h : M.step s = .next t) : M.run (k + 1) s = M.run k t := by
  simp only [Host.Core.run, h]

/-- A run of this machine takes one step and goes on. -/
theorem core_run_succ (k : Nat) {s t : State} (h : step s = .next t) :
    Host.Core.run core (k + 1) s = Host.Core.run core k t := run_succ core k h

theorem step_of_schedule {s : State} {turn : Turn} {rest : List Turn} (h : s.schedule = turn :: rest) :
    step s = takeTurn Config.params turn { s with schedule := rest } := by
  rw [step, State.nextTurn_of_schedule h, State.consumeTurn_of_schedule h]

theorem runTurns_cons {p : Params} {turn : Turn} {s s' : State} (h : takeTurn p turn s = .next s')
    (turns : List Turn) : runTurns p (turn :: turns) s = runTurns p turns s' := by
  simp only [runTurns, h]

theorem runTurns_append {p : Params} {s t : State} (turns turns' : List Turn) (h : runTurns p turns s = .next t) :
    runTurns p (turns ++ turns') s = runTurns p turns' t := by
  induction turns generalizing s with
  | nil => cases h; rfl
  | cons turn turns ih =>
    simp only [List.cons_append, runTurns] at h ⊢
    split at h
    · exact ih h
    · cases h
    · cases h

end Sys2Proof.Safety
end

