-- ==== Sys2Proof/Tests/Slice0.lean ====
section
/-! SUPPORT. The model's own tests: expected values from spec/95_test_vectors.md (its vector is named in each comment),
and a witness for every statement that has hypotheses. -/

namespace Sys2Proof.Tests

open Sys2Proof.Machine Sys2Proof.Safety

/-! ### Frames, parameters and states the tests use -/

/-- `p0` of 95_test_vectors.md section 5. -/
def p0 : Frame := { id := 0x200, ide := 0, rtr := 0, dlc := 8, data := #v[0x0B, 0xB8, 0x00, 0x50, 0, 0, 0, 0] }

/-- `p1` of 95_test_vectors.md section 5. -/
def p1 : Frame := { id := 0x201, ide := 0, rtr := 0, dlc := 8, data := zeros 8 }

/-- `g0` of 95_test_vectors.md section 4 (SV9). -/
def g0 : Frame := { id := 0x200, ide := 0, rtr := 0, dlc := 8, data := #v[0x12, 0x34, 0xAB, 0xCD, 0, 0, 0, 0] }

/-- Parameters with `P_TRACE_RX_TIMEOUT` as given. -/
def params (traced : Bool) : Params := { txTimeout := 7, traceRxTimeout := traced }

/-- The state after `ENC rot, veh` from reset, in the phase given. -/
def encoding (phase : EncPhase) (rot veh : BitVec 16) : State :=
  { State.reset with enc := { phase := phase, buf := pack rot veh, cause0 := .ok } }

/-- A state in phase RX0 of `DEC 100`. -/
def receiving0 : State :=
  { State.reset with
    dec := { phase := .rx0, timeout := 100, slot0 := zeros 8, slot1 := zeros 8, valid := 0b00, cause0 := .ok } }

/-- The state after `receiving0` received `p0`. -/
def receiving1 : State :=
  { State.reset with
    dec := { phase := .rx1, timeout := 100, slot0 := p0.data, slot1 := zeros 8, valid := 0b01, cause0 := .ok },
    receives := [{ timeout := 100, answer := .frame p0 }] }

/-- The next state's value under `f`, if there is a next state. -/
def after {α : Type} (f : State → α) : Host.Outcome State Fault Refusal → Option α
  | .next s => some (f s)
  | .fault _ => none
  | .refused _ => none

/-- The status word of the last event. -/
def lastStatus (s : State) : Option (BitVec 16) := s.events.getLast?.bind eventStatusWord

/-! ### Well-formed words and decoding -/

/-- CV4: an unallocated opcode is refused by the first check. -/
theorem test_wellFormed_refuses_opcode : wordWellFormed 0x0300000000000000 = false := by decide

/-- CV8: a reserved bit is refused by the second check. -/
theorem test_wellFormed_refuses_reserved : wordWellFormed 0x0280000000000064 = false := by decide

/-- R48: every ENC operand is legal, the boundary ones among them. -/
theorem test_wellFormed_accepts : (Instr.enc 0xFFFF 0).wellFormed = true ∧ (Instr.dec 0).wellFormed = true := by decide

/-- opcode 00000001, 24 zeros, rot 0000101110111000, veh 0000000001010000 (CV1). -/
theorem test_decode_enc :
    decode 0b0000000100000000000000000000000000001011101110000000000001010000 = .ok (.enc 3000 80) := by decide

/-- opcode 00000010, 24 zeros, timeout 00000000000000000000000001100100 (CV2). -/
theorem test_decode_dec :
    decode 0b0000001000000000000000000000000000000000000000000000000001100100 = .ok (.dec 100) := by decide

/-- CV5, CV15: the opcode test comes first. -/
theorem test_decode_illegal : decode 0xFF00000000000000 = .error .illegalOpcode ∧
    decode 0x03FFFFFFFFFFFFFF = .error .illegalOpcode := by decide

/-- CV7, CV8. -/
theorem test_decode_reserved : decode 0x0100000100000000 = .error .reservedNonzero ∧
    decode 0x0280000000000064 = .error .reservedNonzero := by decide

/-- The examples of spec/opcode_table.json. -/
theorem test_decodeTableWord : decodeTableWord 64 0x010000000BB80050 = some (.enc 3000 80) ∧
    decodeTableWord 64 0x0200000000000064 = some (.dec 100) := by decide

/-- AV1, AV2. -/
theorem test_assemble_enc : assembleLine "ENC 3000, 80".toList = .ok (some 0x010000000BB80050) ∧
    assembleLine "enc 0x0BB8, 0x50 ; note".toList = .ok (some 0x010000000BB80050) := by decide

/-- AV3, AV4. -/
theorem test_assemble_dec : assembleLine "DEC 100".toList = .ok (some 0x0200000000000064) ∧
    assembleLine "DEC 4294967295".toList = .ok (some 0x02000000FFFFFFFF) := by decide

/-- AV5, AV6, AV7: rejected, no word. -/
theorem test_assemble_rejects : assembleLine "ENC 65536, 0".toList = .error .operandRange ∧
    assembleLine "ENC 5".toList = .error .operandCount ∧
    assembleLine "DEC -1".toList = .error .badInteger := by decide

/-- AV8. -/
theorem test_assemble_cmd : assembleLine ".cmd 0x0300000000000000".toList = .ok (some 0x0300000000000000) := by decide

/-! ### Serializer -/

/-- SV4, SV5: byte order. -/
theorem test_pack : pack 0x1234 0xABCD = #v[0x12, 0x34, 0xAB, 0xCD, 0, 0, 0, 0, 0, 0, 0, 0, 0, 0, 0, 0] ∧
    pack 1 256 = #v[0x00, 0x01, 0x01, 0x00, 0, 0, 0, 0, 0, 0, 0, 0, 0, 0, 0, 0] := by decide

/-- SV15: the second slot is ignored. -/
theorem test_extract : extract (assemble #v[0x00, 0x01, 0x00, 0x02, 0, 0, 0, 0]
    #v[0xFF, 0xFF, 0xFF, 0xFF, 0xFF, 0xFF, 0xFF, 0xFF]) = { rotationalSpeed := 1, vehicleSpeed := 2 } := by decide

/-- SV9, SV12. -/
theorem test_frame_and_slot : txFrame .slot0 (pack 0x1234 0xABCD) = g0 ∧
    slotOf 0x1FFFFFFF = none ∧ slotOf 0x10000200 = none := by decide

/-! ### ENC and its steps -/

/-- CV1: the first step from reset runs the offered word. -/
theorem test_enc_accepted :
    after (fun s => (s.enc.phase, s.enc.buf, lastStatus s)) (step (State.reset.withFetchWord 64 0x010000000BB80050)) =
      some (.send0, pack 3000 80, some 0x0001) := by decide

/-- CV10, EV5: a busy encoder. -/
theorem test_enc_busy :
    after (fun s => (s.enc.phase, s.enc.buf, lastStatus s)) (exec (.enc 1 1) (encoding .send1 0x1234 0xABCD)) =
      some (.send1, pack 0x1234 0xABCD, some 0x0701) := by decide

/-- EV3: a FAILURE in phase SEND0 is recorded and the cycle goes on; the Trace says Failed (TV2). -/
theorem test_send0_failure :
    after (fun s => (s.enc.phase, s.enc.cause0, s.events))
      (takeTurn (params false) (.encoder .failure 5) (encoding .send0 0x1234 0xABCD)) =
      some (.send1, .sendFailure,
        [.trace { time := 5, side := .tx, dir := .failed, label := .slot0, frame := some g0 }]) := by decide

/-- EV2: ENC_STATUS 0x10. -/
theorem test_send1_failure :
    after (fun s => (s.enc.phase, lastStatus s))
      (takeTurn (params false) (.encoder .failure 5) (encoding .send1 0x1234 0xABCD)) = some (.idle, some 0x0010) := by
  decide

/-! ### DEC and its steps -/

/-- CV14, DV17: the timeout is latched and the tracker and slots are cleared. -/
theorem test_dec_accepted :
    after (fun s => (s.dec, lastStatus s)) (exec (.dec 0xFFFFFFFF) { receiving1 with
        dec := { receiving1.dec with phase := .idle, valid := 0b11 } }) =
      some ({ phase := .rx0, timeout := 0xFFFFFFFF, slot0 := zeros 8, slot1 := zeros 8, valid := 0b00, cause0 := .ok },
        some 0x0002) := by decide

/-- CV11: a busy decoder. -/
theorem test_dec_busy :
    after (fun s => (s.dec, lastStatus s)) (exec (.dec 0) receiving1) = some (receiving1.dec, some 0x0702) := by decide

/-- DV11: neither the remote flag nor the length is examined, and all 8 bytes are copied. -/
theorem test_receive0_remote :
    after (fun s => (s.dec.slot0, s.dec.valid, s.dec.cause0)) (takeTurn (params false) (.decoder (.frame
        { id := 0x200, ide := 0, rtr := 1, dlc := 0, data := #v[0x11, 0x22, 0x33, 0x44, 0x55, 0x66, 0x77, 0x88] }) 0)
        receiving0) = some (#v[0x11, 0x22, 0x33, 0x44, 0x55, 0x66, 0x77, 0x88], 0b01, .ok) := by decide

/-- DV13: the full 29-bit identifier is compared. -/
theorem test_receive0_extended :
    after (fun s => (s.dec.slot0, s.dec.valid, s.dec.cause0)) (takeTurn (params false) (.decoder (.frame
        { id := 0x10000200, ide := 1, rtr := 0, dlc := 8, data := p0.data }) 0) receiving0) =
      some (zeros 8, 0b00, .unexpectedIdentifier) := by decide

/-- DV1: a record. -/
theorem test_receive1_record :
    after (fun s => (s.dec.valid, lastStatus s, s.events.getLast?.bind eventRecData))
      (takeTurn (params false) (.decoder (.frame p1) 0) receiving1) = some (0b11, some 0x0000, some 0x0BB80050) := by
  decide

/-- DV2 with `P_TRACE_RX_TIMEOUT` true and false: DEC_STATUS 0x0420, no record, and the Trace of the timeout (TV4, TV5). -/
theorem test_receive1_timeout :
    after (fun s => (s.dec.valid, lastStatus s, s.events.length))
      (takeTurn (params true) (.decoder .timeout 0) receiving1) = some (0b01, some 0x0420, 2) ∧
    after (fun s => s.events) (takeTurn (params false) (.decoder .timeout 0) receiving1) =
      some [.decDone .ok .receiveTimeout .incompleteRecord none] := by decide

/-! ### Command port, reset, rendering -/

/-- CV3, CV16: rejected words are answered in a next state. -/
theorem test_rejected_words :
    after lastStatus (step (State.reset.withFetchWord 64 0)) = some (some 0x0500) ∧
    after lastStatus (step ((encoding .send1 5 6).withFetchWord 64 0x0100010000000000)) = some (some 0x0601) := by decide

/-- RV2, RV3. -/
theorem test_reset_step :
    after (fun s => (s.enc, s.dec, s.events)) (takeTurn (params false) .reset
      { receiving1 with enc := (encoding .send1 5 6).enc }) = some (State.reset.enc, State.reset.dec, []) := by decide

/-- TV7, TV8. -/
theorem test_time_split : (fun (l : TraceLine) => (l.hours, l.minutes, l.seconds, l.milliseconds))
      (renderTrace { time := 90061001, side := .tx, dir := .sent, label := .slot0, frame := some p0 }) = (25, 1, 1, 1) ∧
    (renderTrace { time := 3723004, side := .tx, dir := .sent, label := .slot1, frame := none }).label = "Part 2" := by
  decide

/-! ### Witnesses: the hypotheses of each statement, met together -/

theorem witness_EncodeInvertsDecode : decode 0x01000000FFFFFFFF = .ok (.enc 0xFFFF 0xFFFF) := by decide

theorem witness_EncOperandFields :
    (0x010000000BB80050 : Word).extractLsb 63 56 = 0x01 ∧ (0x010000000BB80050 : Word).extractLsb 55 32 = 0 := by decide

/-- The boundary operands of each clause. -/
theorem witness_AssemblerWords : (65535 ≤ 65535 ∧ 0 ≤ 65535) ∧ (65535 < 65536 ∨ 65535 < 0) ∧ 4294967295 ≤ 4294967295 ∧
    4294967295 < 4294967296 ∧ 2 ^ 64 ≤ 18446744073709551616 := by decide

theorem witness_PackBytes : (4 < 16 ∧ 4 ≤ 4) ∧ (15 < 16 ∧ 4 ≤ 15) := by decide

theorem witness_SplitBytes_AssembleBytes : 0 < 8 ∧ 7 < 8 := by decide

theorem witness_SlotOfIdentifier : p1.id = 0x201 := by decide

/-- Two arrays that agree in bytes 0 to 3 only, and one that holds the example record. -/
theorem witness_ExtractBigEndian :
    let A : Bytes 16 := #v[0x0B, 0xB8, 0x00, 0x50, 1, 2, 3, 4, 5, 6, 7, 8, 9, 10, 11, 12]
    let B := pack 3000 80
    A ≠ B ∧ A[0] = B[0] ∧ A[1] = B[1] ∧ A[2] = B[2] ∧ A[3] = B[3] ∧
      A[0] = 0x0B ∧ A[1] = 0xB8 ∧ A[2] = 0x00 ∧ A[3] = 0x50 := by decide

/-- The decoder is busy, and the word is CV1's. -/
theorem witness_EncAcceptedWhenIdle : receiving1.enc.phase = .idle ∧
    (0x010000000BB80050 : Word).extractLsb 63 56 = 0x01 ∧ (0x010000000BB80050 : Word).extractLsb 55 32 = 0 := by decide

/-- The encoder is busy, and the word is CV2's. -/
theorem witness_DecAcceptedWhenIdle_NoStaleSlotData : (encoding .send1 1 2).dec.phase = .idle ∧
    (0x0200000000000064 : Word).extractLsb 63 56 = 0x02 ∧ (0x0200000000000064 : Word).extractLsb 55 32 = 0 := by decide

theorem witness_BusyCommandIsLost : (encoding .send0 1 2).enc.phase ≠ .idle ∧ receiving1.dec.phase ≠ .idle := by decide

theorem witness_CommandsTouchOnlyTheirUnit : State.reset.enc.phase = .idle ∧ State.reset.dec.phase = .idle := by decide

theorem witness_StepRunsDecodedCommand :
    ({ State.reset with schedule := [.host 0x0200000000000064] } : State).nextTurn = .host 0x0200000000000064 ∧
      decode 0x0200000000000064 = .ok (.dec 100) := ⟨rfl, by decide⟩

theorem witness_OfferedWordRunsNext : decodeTableWord 64 0x010000000BB80050 = some (.enc 3000 80) := by decide

theorem witness_StepRunsUnitAndResetTurns :
    ({ State.reset with schedule := [.encoder .failure 3] } : State).nextTurn = .encoder .failure 3 ∧
    ({ State.reset with schedule := [.decoder .timeout 3] } : State).nextTurn = .decoder .timeout 3 ∧
    ({ State.reset with schedule := [.reset] } : State).nextTurn = .reset := ⟨rfl, rfl, rfl⟩

theorem witness_SendStepSlot0 : (encoding .send0 1 2).enc.phase = .send0 := by decide

theorem witness_SendStepSlot1 : (encoding .send1 1 2).enc.phase = .send1 := by decide

theorem witness_EncoderStepEnable : State.reset.enc.phase = .idle ∧ (encoding .send1 1 2).enc.phase ≠ .idle := by decide

/-- Other turns in between: an ENC that is lost, a DEC, a decoder turn. -/
theorem witness_EncodeCycleSendsBothFrames : State.reset.enc.phase = .idle ∧
    [Turn.host 0x0100000000000000, .decoder .timeout 0].all othersThanEncoder = true ∧
    [Turn.host 0x0200000000000000].all othersThanEncoder = true := by decide

theorem witness_MatchOnIdentifierAlone :
    ({ p0 with dlc := 0, rtr := 1 } : Frame).id = p0.id ∧ ({ p0 with dlc := 0, rtr := 1 } : Frame) ≠ p0 := by decide

/-- Each of the two clauses about the decoder's turn. -/
theorem witness_AttemptProcedure : receiving0.dec.phase = .rx0 ∧ receiving1.dec.phase = .rx1 := by decide

theorem witness_ReceiveStepSlot0 : receiving0.dec.phase = .rx0 ∧ p0.id = 0x200 ∧ p1.id ≠ 0x200 := by decide

theorem witness_ReceiveStepSlot1 : receiving1.dec.phase = .rx1 := by decide

theorem witness_DecoderStepEnable : State.reset.dec.phase = .idle ∧ receiving0.dec.phase ≠ .idle := by decide

/-- Other turns in between, and answers for each of the last two clauses. -/
theorem witness_DecodeCycleReportsItsTwoAttempts : State.reset.dec.phase = .idle ∧
    [Turn.host 0x0200000000000000, .encoder .success 0].all othersThanDecoder = true ∧
    [Turn.host 0x0100000000000000].all othersThanDecoder = true ∧
    (ReceiveAnswer.frame p0 = .frame p0 ∧ ReceiveAnswer.frame p1 = .frame p1 ∧ p0.id = 0x200 ∧ p1.id = 0x201) ∧
    ¬ ∃ f0 f1, ReceiveAnswer.timeout = .frame f0 ∧ ReceiveAnswer.frame p1 = .frame f1 ∧ f0.id = 0x200 ∧ f1.id = 0x201 := by
  refine ⟨rfl, rfl, rfl, ⟨rfl, rfl, rfl, rfl⟩, ?_⟩
  rintro ⟨f0, f1, h, -⟩
  cases h

theorem witness_FrameAtWrongAttemptDiscarded :
    (receiving0.dec.phase = .rx0 ∧ p1.id = 0x201) ∧ (receiving1.dec.phase = .rx1 ∧ p0.id = 0x200) := by decide

/-- A bit rises at attempt 1. -/
theorem witness_SlotAssignmentLaw : ∃ t, takeTurn (params false) (.decoder (.frame p0) 0) receiving0 = .next t ∧
    validBit receiving0.dec.valid .slot0 = false ∧ validBit t.dec.valid .slot0 = true :=
  ⟨_, rfl, by decide, by decide⟩

/-- Each clause: the payload register, the latched timeout, a slot filled, a slot cleared, a bit cleared. -/
theorem witness_BuffersWrittenOnlyByTheirRules :
    (∃ t, takeTurn (params false) (.host 0x010000000BB80050) State.reset = .next t ∧ t.enc.buf ≠ State.reset.enc.buf) ∧
    (∃ t, takeTurn (params false) (.host 0x0200000000000064) State.reset = .next t ∧
      t.dec.timeout ≠ State.reset.dec.timeout) ∧
    (∃ t, takeTurn (params false) (.decoder (.frame p0) 0) receiving0 = .next t ∧
      slotData t.dec .slot0 ≠ slotData receiving0.dec .slot0) ∧
    (∃ t, takeTurn (params false) (.host 0x0200000000000064)
        { receiving1 with dec := { receiving1.dec with phase := .idle } } = .next t ∧
      slotData t.dec .slot0 ≠ slotData receiving1.dec .slot0 ∧
      validBit receiving1.dec.valid .slot0 = true ∧ validBit t.dec.valid .slot0 = false) ∧
    Turn.host 0x010000000BB80050 ≠ .reset ∧ Turn.decoder (.frame p0) 0 ≠ .reset :=
  ⟨⟨_, rfl, by decide⟩, ⟨_, rfl, by decide⟩, ⟨_, rfl, by decide⟩, ⟨_, rfl, by decide, by decide, by decide⟩, by decide,
    by decide⟩

theorem witness_EventOrderWithinStep : (encoding .send0 1 2).enc.phase = .send0 ∧ (encoding .send1 1 2).enc.phase = .send1 ∧
    receiving0.dec.phase = .rx0 ∧ receiving1.dec.phase = .rx1 := by decide

theorem witness_ResetAbandonsCycles : [Turn.encoder .success 0, .decoder .timeout 1].all unitTurn = true := by decide

theorem witness_IdleBlockStaysAsItIs : State.reset.enc.phase = .idle ∧ State.reset.dec.phase = .idle ∧
    [Turn.encoder .success 0, .decoder .timeout 1].all unitTurn = true := by decide

/-- A phase that stays, one that advances. -/
theorem witness_PhasesAdvanceInOrder :
    ∃ t, takeTurn (params false) (.decoder (.frame p0) 0) receiving0 = .next t ∧ t.enc.phase = receiving0.enc.phase ∧
      t.dec.phase = .rx1 ∧ Turn.decoder (.frame p0) 0 ≠ .reset := ⟨_, rfl, rfl, rfl, by decide⟩

/-- A busy encoder with two turns, and a busy decoder with two. -/
theorem witness_BusyUnitCompletesInTwoTurns :
    Turn.reset ∉ [Turn.encoder .success 0, .decoder .timeout 1, .encoder .failure 2, .decoder .timeout 3] ∧
    2 ≤ [Turn.encoder .success 0, .decoder .timeout 1, .encoder .failure 2, .decoder .timeout 3].countP encoderTurns ∧
    2 ≤ [Turn.encoder .success 0, .decoder .timeout 1, .encoder .failure 2, .decoder .timeout 3].countP decoderTurns ∧
    (encoding .send0 1 2).enc.phase ≠ .idle ∧ receiving0.dec.phase ≠ .idle := by decide

/-- A state in the middle of both cycles that meets the state invariant. -/
def midCycle : State := { receiving1 with
  enc := (encoding .send1 3000 80).enc,
  sends := [{ frame := txFrame .slot0 (pack 3000 80), timeout := Config.params.txTimeout, answer := .success }],
  events := [.cmdResp 0x01 .ok, .cmdResp 0x02 .ok],
  schedule := [.decoder (.frame p1) 3] }

theorem midCycle_stateInv : StateInv midCycle where
  encCause := .inl rfl
  encReserved := fun i h h4 => pack_reserved 3000 80 i h h4
  decCause := .inl rfl
  tracker := ⟨by decide, by decide⟩
  slots := ⟨fun _ _ => ⟨100, p0, rfl, rfl, rfl⟩, fun h => absurd h (by decide)⟩
  unfilled := fun k => by cases k <;> decide

theorem witness_StepKeepsStateInvariant : StateInv midCycle ∧ ∃ t, step midCycle = .next t :=
  ⟨midCycle_stateInv, _, rfl⟩

theorem witness_StepKeepsHistoriesLawful : HistoryInv midCycle ∧ ∃ t, step midCycle = .next t := by
  refine ⟨⟨midCycle_stateInv, ?_, ?_⟩, _, rfl⟩
  · intro r hr
    obtain rfl : r = { frame := txFrame .slot0 (pack 3000 80), timeout := Config.params.txTimeout, answer := .success } := by
      simpa [midCycle] using hr
    refine ⟨.slot0, rfl, rfl, rfl, rfl, rfl, by simp, fun i h h4 => ?_⟩
    exact (split_slot0_getElem _ i h).trans (pack_reserved _ _ i _ h4)
  · intro e he
    have : e = .cmdResp 0x01 .ok ∨ e = .cmdResp 0x02 .ok := by simpa [midCycle] using he
    rcases this with rfl | rfl
    · exact .inr ⟨.inl rfl, .inl rfl⟩
    · exact .inr ⟨.inl rfl, .inr rfl⟩

end Sys2Proof.Tests
end

/-! PROOFS. What one turn does, whole: its state and schedule, its transactions, what each unit sees of it;
and from these the statements about the scope of the block. -/

namespace Sys2Proof.Safety

open Sys2Proof.Machine

/-! ### The command step, whole -/

/-- A word that decodes has the opcode of the command it decodes to (R47). -/
theorem opcodeField_of_decode {cmd : Word} {i : Instr} (h : decode cmd = .ok i) : opcodeField cmd = opcodeOf i := by
  unfold decode at h
  split_ifs at h with halloc _ henc
  · cases h
    exact henc
  · cases h
    simpa [opcodeAllocated, opcodeOf, henc] using halloc

/-- Every next state a command step can answer: the word's CmdResp alone, or that and the acceptance of its command by
its IDLE unit. -/
theorem commandStep_next (cmd : Word) (s : State) :
    (∃ cause, commandStep cmd s = .next (s.respond (opcodeField cmd) cause)) ∨
    (∃ rot veh, decode cmd = .ok (.enc rot veh) ∧ s.enc.phase = .idle ∧
      commandStep cmd s = .next (encAccept rot veh (s.respond (opcodeField cmd) .ok))) ∨
    (∃ timeout, decode cmd = .ok (.dec timeout) ∧ s.dec.phase = .idle ∧
      commandStep cmd s = .next (decAccept timeout (s.respond (opcodeField cmd) .ok))) := by
  rcases commandStep_cases cmd s with ⟨e, _, hstep⟩ | ⟨i, hdec, hstep⟩
  · exact .inl ⟨_, hstep⟩
  · rw [opcodeField_of_decode hdec, hstep]
    cases i with
    | enc rot veh =>
      rcases execEnc_cases rot veh s with ⟨_, hexec⟩ | ⟨hidle, hexec⟩
      · exact .inl ⟨_, hexec⟩
      · exact .inr (.inl ⟨rot, veh, hdec, hidle, hexec⟩)
    | dec timeout =>
      rcases execDec_cases timeout s with ⟨_, hexec⟩ | ⟨hidle, hexec⟩
      · exact .inl ⟨_, hexec⟩
      · exact .inr (.inr ⟨timeout, hdec, hidle, hexec⟩)

/-- R125: every turn answers a next state. -/
theorem takeTurn_total (p : Params) (turn : Turn) (s : State) : ∃ t, takeTurn p turn s = .next t := by
  cases turn with
  | host cmd =>
    rcases commandStep_next cmd s with ⟨_, h⟩ | ⟨_, _, _, _, h⟩ | ⟨_, _, _, h⟩ <;> exact ⟨_, h⟩
  | encoder a time => exact ⟨_, rfl⟩
  | decoder a time => exact ⟨_, rfl⟩
  | reset => exact ⟨_, rfl⟩

/-! ### The schedule is no turn's business -/

theorem commandStep_withSchedule {cmd : Word} {s t : State} (h : commandStep cmd s = .next t) (turns : List Turn) :
    commandStep cmd { s with schedule := turns } = .next { t with schedule := turns } := by
  cases hdec : decode cmd with
  | error e =>
    simp only [commandStep, hdec, Host.Outcome.next.injEq] at h ⊢
    subst h
    rfl
  | ok i =>
    cases i with
    | enc rot veh =>
      simp only [commandStep, hdec, exec, execEnc] at h ⊢
      split_ifs at h ⊢ <;> (cases h; rfl)
    | dec timeout =>
      simp only [commandStep, hdec, exec, execDec] at h ⊢
      split_ifs at h ⊢ <;> (cases h; rfl)

theorem encoderTurn_withSchedule (p : Params) (a : SendAnswer) (time : Nat) (s : State) (turns : List Turn) :
    encoderTurn p a time { s with schedule := turns } = { encoderTurn p a time s with schedule := turns } := by
  cases h : s.enc.phase <;> simp [encoderTurn, h, sendStep0_eq, sendStep1_eq]

theorem decoderTurn_withSchedule (p : Params) (a : ReceiveAnswer) (time : Nat) (s : State) (turns : List Turn) :
    decoderTurn p a time { s with schedule := turns } = { decoderTurn p a time s with schedule := turns } := by
  cases h : s.dec.phase <;> simp [decoderTurn, h, receiveStep0_eq, receiveStep1_eq]

/-- A turn neither reads nor writes the schedule (log entry 1). -/
theorem takeTurn_withSchedule {p : Params} {turn : Turn} {s t : State} (h : takeTurn p turn s = .next t)
    (turns : List Turn) : takeTurn p turn { s with schedule := turns } = .next { t with schedule := turns } := by
  cases turn with
  | host cmd => exact commandStep_withSchedule h turns
  | encoder a time => cases h; exact congrArg _ (encoderTurn_withSchedule p a time s turns)
  | decoder a time => cases h; exact congrArg _ (decoderTurn_withSchedule p a time s turns)
  | reset => cases h; rfl

/-- Settles O26, by induction on the turns: a step takes the first one off the schedule. -/
theorem scheduleRunsInOrder : Obligations.ScheduleRunsInOrder := by
  intro turns rest s
  induction turns generalizing s with
  | nil => rfl
  | cons turn turns ih =>
    obtain ⟨t, ht⟩ := takeTurn_total Config.params turn s
    have hstep : step { s with schedule := turn :: (turns ++ rest) } = .next { t with schedule := turns ++ rest } := by
      rw [step_of_schedule rfl, takeTurn_withSchedule ht]
    rw [List.length_cons, runTurns_cons (takeTurn_withSchedule ht rest)]
    exact (core_run_succ _ hstep).trans (ih t)

/-- Settles O25: a step is the next turn, taken after it is off the schedule. -/
theorem stepRunsUnitAndResetTurns : Obligations.StepRunsUnitAndResetTurns := by
  intro s
  refine ⟨fun a time h => ?_, fun a time h => ?_, fun h => ?_⟩ <;> rw [step, h, takeTurn]

/-! ### The transactions of a turn -/

/-- An encoder turn sends at most once and receives nothing. -/
theorem encoderTurn_transactions (p : Params) (a : SendAnswer) (time : Nat) (s : State) :
    (encoderTurn p a time s).receives = s.receives ∧
    ∃ sent, (encoderTurn p a time s).sends = s.sends ++ sent ∧ sent.length ≤ 1 := by
  rcases encoderTurn_cases p a time s with ⟨_, h⟩ | ⟨_, h⟩ | ⟨_, h⟩ <;> rw [h]
  · exact ⟨rfl, [], by simp⟩
  · rw [sendStep0_eq]
    exact ⟨rfl, [_], rfl, le_rfl⟩
  · rw [sendStep1_eq]
    exact ⟨rfl, [_], rfl, le_rfl⟩

/-- A decoder turn receives at most once and sends nothing. -/
theorem decoderTurn_transactions (p : Params) (a : ReceiveAnswer) (time : Nat) (s : State) :
    (decoderTurn p a time s).sends = s.sends ∧
    ∃ received, (decoderTurn p a time s).receives = s.receives ++ received ∧ received.length ≤ 1 := by
  rcases decoderTurn_cases p a time s with ⟨_, h⟩ | ⟨_, h⟩ | ⟨_, h⟩ <;> rw [h]
  · exact ⟨rfl, [], by simp⟩
  · rw [receiveStep0_eq]
    exact ⟨rfl, [_], rfl, le_rfl⟩
  · rw [receiveStep1_eq]
    exact ⟨rfl, [_], rfl, le_rfl⟩

/-- A command step makes no transaction. -/
theorem commandStep_transactions {cmd : Word} {s t : State} (h : commandStep cmd s = .next t) :
    t.sends = s.sends ∧ t.receives = s.receives := by
  rcases commandStep_next cmd s with ⟨_, h'⟩ | ⟨_, _, _, _, h'⟩ | ⟨_, _, _, h'⟩ <;>
    (cases h'.symm.trans h; exact ⟨rfl, rfl⟩)

/-- Settles O57: only a unit's turn makes a transaction, on the unit's own port. -/
theorem atMostOneTransactionPerStep : Obligations.AtMostOneTransactionPerStep := by
  intro p turn s
  cases turn with
  | host cmd =>
    obtain ⟨t, ht⟩ := takeTurn_total p (.host cmd) s
    obtain ⟨hsends, hreceives⟩ := commandStep_transactions ht
    exact ⟨t, [], [], ht, by simp [hsends, hreceives]⟩
  | encoder a time =>
    obtain ⟨hreceives, sent, hsends, hlen⟩ := encoderTurn_transactions p a time s
    exact ⟨_, sent, [], rfl, hsends, by simp [hreceives], by simpa using hlen, fun _ => rfl, by simp⟩
  | decoder a time =>
    obtain ⟨hsends, received, hreceives, hlen⟩ := decoderTurn_transactions p a time s
    exact ⟨_, [], received, rfl, by simp [hsends], hreceives, by simpa using hlen, by simp, fun _ => rfl⟩
  | reset => exact ⟨_, [], [], rfl, by simp⟩

/-! ### What a unit sees of a turn -/

/-- A view that turns outside `concerns` leave alone, and that turns inside it determine from the view before, is the
same after a run and after the run of the turns inside `concerns` alone. -/
theorem runTurns_filter_view {α : Type} (p : Params) (view : State → α) (concerns : Turn → Bool)
    (hskip : ∀ {turn s t}, concerns turn = false → takeTurn p turn s = .next t → view t = view s)
    (hcongr : ∀ {turn s s' t t'}, concerns turn = true → view s = view s' →
      takeTurn p turn s = .next t → takeTurn p turn s' = .next t' → view t = view t')
    (turns : List Turn) {s s' : State} (hview : view s = view s') :
    ∃ t t', runTurns p turns s = .next t ∧ runTurns p (turns.filter concerns) s' = .next t' ∧
      view t = view t' := by
  induction turns generalizing s s' with
  | nil => exact ⟨s, s', rfl, rfl, hview⟩
  | cons turn turns ih =>
    obtain ⟨u, hu⟩ := takeTurn_total p turn s
    rw [runTurns_cons hu]
    cases hc : concerns turn with
    | false =>
      rw [List.filter_cons_of_neg (by simp [hc])]
      exact ih ((hskip hc hu).trans hview)
    | true =>
      obtain ⟨u', hu'⟩ := takeTurn_total p turn s'
      rw [List.filter_cons_of_pos hc, runTurns_cons hu']
      exact ih (hcongr hc hview hu hu')

theorem encoderView_eq_iff {s s' : State} : encoderView s = encoderView s' ↔
    s.enc = s'.enc ∧ s.sends = s'.sends ∧ s.events.filter encoderEvent = s'.events.filter encoderEvent := by
  simp [encoderView]

theorem decoderView_eq_iff {s s' : State} : decoderView s = decoderView s' ↔
    s.dec = s'.dec ∧ s.receives = s'.receives ∧ s.events.filter decoderEvent = s'.events.filter decoderEvent := by
  simp [decoderView]

@[simp] theorem filter_encoderEvent_receiveTrace (p : Params) (k : Slot) (a : ReceiveAnswer) (time : Nat) :
    ((receiveTrace p k a time).toList.map Event.trace).filter encoderEvent = [] := by
  rcases receiveTrace_cases p k a time with ⟨_, _, h⟩ | ⟨_, _, h⟩ | ⟨_, _, h⟩ <;> rw [h] <;> rfl

@[simp] theorem encoderEvent_decDoneEvent (d : DecUnit) (rx1 : Cause) : encoderEvent (decDoneEvent d rx1) = false := by
  rw [decDoneEvent_eq, encoderEvent]

/-! ### The encoder's view -/

theorem encoderView_decoderTurn (p : Params) (a : ReceiveAnswer) (time : Nat) (s : State) :
    encoderView (decoderTurn p a time s) = encoderView s := by
  rcases decoderTurn_cases p a time s with ⟨_, h⟩ | ⟨_, h⟩ | ⟨_, h⟩ <;> rw [h]
  · simp [encoderView, receiveStep0_eq]
  · simp [encoderView, receiveStep1_eq]

theorem encoderView_commandStep_of_ne {cmd : Word} {s t : State} (hop : opcodeField cmd ≠ opcodeEnc)
    (h : commandStep cmd s = .next t) : encoderView t = encoderView s := by
  rcases commandStep_next cmd s with ⟨_, h'⟩ | ⟨_, _, hdec, _, _⟩ | ⟨_, _, _, h'⟩
  · cases h'.symm.trans h
    simp [encoderView, encoderEvent, hop]
  · exact absurd (opcodeField_of_decode hdec) hop
  · cases h'.symm.trans h
    simp [encoderView, encoderEvent, hop]

/-- A turn that does not concern the encoder leaves all that belongs to it (R74, R138). -/
theorem encoderView_takeTurn_of_not_concerns {p : Params} {turn : Turn} {s t : State}
    (hc : concernsEncoder turn = false) (h : takeTurn p turn s = .next t) : encoderView t = encoderView s := by
  cases turn with
  | host cmd => exact encoderView_commandStep_of_ne (by simpa [concernsEncoder] using hc) h
  | encoder a time => cases hc
  | decoder a time => cases h; exact encoderView_decoderTurn p a time s
  | reset => cases hc

section
variable {s s' : State} (hview : encoderView s = encoderView s')
include hview

theorem encoderView_respond_congr (op : BitVec 8) (cause : Cause) :
    encoderView (s.respond op cause) = encoderView (s'.respond op cause) := by
  obtain ⟨henc, hsends, hevents⟩ := encoderView_eq_iff.mp hview
  simp [encoderView, henc, hsends, hevents]

theorem encoderView_encAccept_congr (rot veh : BitVec 16) :
    encoderView (encAccept rot veh s) = encoderView (encAccept rot veh s') := by
  obtain ⟨henc, hsends, hevents⟩ := encoderView_eq_iff.mp hview
  simp [encoderView, henc, hsends, hevents]

theorem encoderView_encoderTurn_congr (p : Params) (a : SendAnswer) (time : Nat) :
    encoderView (encoderTurn p a time s) = encoderView (encoderTurn p a time s') := by
  obtain ⟨henc, hsends, hevents⟩ := encoderView_eq_iff.mp hview
  cases h : s'.enc.phase <;>
    simp [encoderTurn, encoderView, sendStep0_eq, sendStep1_eq, h, henc, hsends, hevents]

theorem encoderView_execEnc_congr {rot veh : BitVec 16} {t t' : State} (h : execEnc rot veh s = .next t)
    (h' : execEnc rot veh s' = .next t') : encoderView t = encoderView t' := by
  obtain ⟨henc, -, -⟩ := encoderView_eq_iff.mp hview
  rw [execEnc, henc] at h
  rw [execEnc] at h'
  split_ifs at h h'
  · cases h; cases h'
    exact encoderView_respond_congr hview _ _
  · cases h; cases h'
    exact encoderView_encAccept_congr (encoderView_respond_congr hview _ _) _ _

theorem encoderView_commandStep_congr {cmd : Word} {t t' : State} (hop : opcodeField cmd = opcodeEnc)
    (h : commandStep cmd s = .next t) (h' : commandStep cmd s' = .next t') : encoderView t = encoderView t' := by
  cases hdec : decode cmd with
  | error e =>
    simp only [commandStep, hdec, Host.Outcome.next.injEq] at h h'
    subst h h'
    exact encoderView_respond_congr hview _ _
  | ok i =>
    simp only [commandStep, hdec] at h h'
    cases i with
    | enc rot veh => exact encoderView_execEnc_congr hview h h'
    | dec timeout => exact absurd ((opcodeField_of_decode hdec).symm.trans hop) (show opcodeDec ≠ opcodeEnc by decide)

/-- What belongs to the encoder after a turn that concerns it depends on nothing else. -/
theorem encoderView_takeTurn_congr {p : Params} {turn : Turn} {t t' : State} (hc : concernsEncoder turn = true)
    (h : takeTurn p turn s = .next t) (h' : takeTurn p turn s' = .next t') : encoderView t = encoderView t' := by
  cases turn with
  | host cmd => exact encoderView_commandStep_congr hview (by simpa [concernsEncoder] using hc) h h'
  | encoder a time => cases h; cases h'; exact encoderView_encoderTurn_congr hview p a time
  | decoder a time => cases hc
  | reset =>
    obtain ⟨-, hsends, hevents⟩ := encoderView_eq_iff.mp hview
    cases h; cases h'
    exact encoderView_eq_iff.mpr ⟨rfl, hsends, hevents⟩

end

/-! ### The decoder's view -/

theorem decoderView_encoderTurn (p : Params) (a : SendAnswer) (time : Nat) (s : State) :
    decoderView (encoderTurn p a time s) = decoderView s := by
  rcases encoderTurn_cases p a time s with ⟨_, h⟩ | ⟨_, h⟩ | ⟨_, h⟩ <;> rw [h]
  · simp [decoderView, sendStep0_eq, decoderEvent, sendTrace]
  · simp [decoderView, sendStep1_eq, decoderEvent, sendTrace]

theorem decoderView_commandStep_of_ne {cmd : Word} {s t : State} (hop : opcodeField cmd ≠ opcodeDec)
    (h : commandStep cmd s = .next t) : decoderView t = decoderView s := by
  rcases commandStep_next cmd s with ⟨_, h'⟩ | ⟨_, _, _, _, h'⟩ | ⟨_, hdec, _, _⟩
  · cases h'.symm.trans h
    simp [decoderView, decoderEvent, hop]
  · cases h'.symm.trans h
    simp [decoderView, decoderEvent, hop]
  · exact absurd (opcodeField_of_decode hdec) hop

/-- A turn that does not concern the decoder leaves all that belongs to it (R74, R138). -/
theorem decoderView_takeTurn_of_not_concerns {p : Params} {turn : Turn} {s t : State}
    (hc : concernsDecoder turn = false) (h : takeTurn p turn s = .next t) : decoderView t = decoderView s := by
  cases turn with
  | host cmd => exact decoderView_commandStep_of_ne (by simpa [concernsDecoder] using hc) h
  | encoder a time => cases h; exact decoderView_encoderTurn p a time s
  | decoder a time => cases hc
  | reset => cases hc

section
variable {s s' : State} (hview : decoderView s = decoderView s')
include hview

theorem decoderView_respond_congr (op : BitVec 8) (cause : Cause) :
    decoderView (s.respond op cause) = decoderView (s'.respond op cause) := by
  obtain ⟨hdec, hreceives, hevents⟩ := decoderView_eq_iff.mp hview
  simp [decoderView, hdec, hreceives, hevents]

theorem decoderView_decAccept_congr (timeout : BitVec 32) :
    decoderView (decAccept timeout s) = decoderView (decAccept timeout s') := by
  obtain ⟨hdec, hreceives, hevents⟩ := decoderView_eq_iff.mp hview
  simp [decoderView, hdec, hreceives, hevents]

theorem decoderView_decoderTurn_congr (p : Params) (a : ReceiveAnswer) (time : Nat) :
    decoderView (decoderTurn p a time s) = decoderView (decoderTurn p a time s') := by
  obtain ⟨hdec, hreceives, hevents⟩ := decoderView_eq_iff.mp hview
  cases h : s'.dec.phase <;>
    simp [decoderTurn, decoderView, receiveStep0_eq, receiveStep1_eq, h, hdec, hreceives, hevents]

theorem decoderView_execDec_congr {timeout : BitVec 32} {t t' : State} (h : execDec timeout s = .next t)
    (h' : execDec timeout s' = .next t') : decoderView t = decoderView t' := by
  obtain ⟨hdec, -, -⟩ := decoderView_eq_iff.mp hview
  rw [execDec, hdec] at h
  rw [execDec] at h'
  split_ifs at h h'
  · cases h; cases h'
    exact decoderView_respond_congr hview _ _
  · cases h; cases h'
    exact decoderView_decAccept_congr (decoderView_respond_congr hview _ _) _

theorem decoderView_commandStep_congr {cmd : Word} {t t' : State} (hop : opcodeField cmd = opcodeDec)
    (h : commandStep cmd s = .next t) (h' : commandStep cmd s' = .next t') : decoderView t = decoderView t' := by
  cases hdec : decode cmd with
  | error e =>
    simp only [commandStep, hdec, Host.Outcome.next.injEq] at h h'
    subst h h'
    exact decoderView_respond_congr hview _ _
  | ok i =>
    simp only [commandStep, hdec] at h h'
    cases i with
    | enc rot veh => exact absurd ((opcodeField_of_decode hdec).symm.trans hop) (show opcodeEnc ≠ opcodeDec by decide)
    | dec timeout => exact decoderView_execDec_congr hview h h'

/-- What belongs to the decoder after a turn that concerns it depends on nothing else. -/
theorem decoderView_takeTurn_congr {p : Params} {turn : Turn} {t t' : State} (hc : concernsDecoder turn = true)
    (h : takeTurn p turn s = .next t) (h' : takeTurn p turn s' = .next t') : decoderView t = decoderView t' := by
  cases turn with
  | host cmd => exact decoderView_commandStep_congr hview (by simpa [concernsDecoder] using hc) h h'
  | encoder a time => cases hc
  | decoder a time => cases h; cases h'; exact decoderView_decoderTurn_congr hview p a time
  | reset =>
    obtain ⟨-, hreceives, hevents⟩ := decoderView_eq_iff.mp hview
    cases h; cases h'
    exact decoderView_eq_iff.mpr ⟨rfl, hreceives, hevents⟩

end

/-- Settles O55, from what one turn does to each unit's view, by induction on the run. -/
theorem unitsAreIsolated : Obligations.UnitsAreIsolated := by
  intro p turns s
  obtain ⟨t, te, ht, hte, hviewEnc⟩ := runTurns_filter_view p encoderView concernsEncoder
    encoderView_takeTurn_of_not_concerns (fun hc hview h h' => encoderView_takeTurn_congr hview hc h h') turns
    (rfl : encoderView s = encoderView s)
  obtain ⟨t', td, ht', htd, hviewDec⟩ := runTurns_filter_view p decoderView concernsDecoder
    decoderView_takeTurn_of_not_concerns (fun hc hview h h' => decoderView_takeTurn_congr hview hc h h') turns
    (rfl : decoderView s = decoderView s)
  obtain rfl : t = t' := by simpa [ht] using ht'
  exact ⟨t, te, td, ht, hte, hviewEnc, htd, hviewDec⟩

end Sys2Proof.Safety

/-! PROOFS. What one turn can do to each unit's elements, said once; and from it the statements about the state: the
phases, the buffers, the state invariant, the event history, the reset values. -/

namespace Sys2Proof.Safety

open Sys2Proof.Machine

/-! ### What a turn can do to each unit -/

/-- Everything a turn can do to the encoder's elements (R88 to R91, R142). -/
theorem takeTurn_enc_cases {p : Params} {turn : Turn} {s t : State} (h : takeTurn p turn s = .next t) :
    t.enc = s.enc ∨
    (turn = .reset ∧ t.enc = EncUnit.reset) ∨
    (s.enc.phase = .idle ∧ ∃ cmd rot veh, turn = .host cmd ∧ decode cmd = .ok (.enc rot veh) ∧
      t.enc = { s.enc with buf := pack rot veh, phase := .send0 }) ∨
    (s.enc.phase = .send0 ∧ ∃ a, t.enc = { s.enc with cause0 := sendCause a, phase := .send1 }) ∨
    (s.enc.phase = .send1 ∧ t.enc = { s.enc with phase := .idle }) := by
  cases turn with
  | host cmd =>
    rcases commandStep_next cmd s with ⟨_, h'⟩ | ⟨rot, veh, hdec, hidle, h'⟩ | ⟨_, _, _, h'⟩ <;> cases h'.symm.trans h
    · exact .inl rfl
    · exact .inr (.inr (.inl ⟨hidle, cmd, rot, veh, rfl, hdec, rfl⟩))
    · exact .inl rfl
  | encoder a time =>
    cases h
    rcases encoderTurn_cases p a time s with ⟨_, h⟩ | ⟨hphase, h⟩ | ⟨hphase, h⟩ <;> rw [h]
    · exact .inl rfl
    · exact .inr (.inr (.inr (.inl ⟨hphase, a, rfl⟩)))
    · exact .inr (.inr (.inr (.inr ⟨hphase, rfl⟩)))
  | decoder a time =>
    cases h
    exact .inl (encoderView_eq_iff.mp (encoderView_decoderTurn p a time s)).1
  | reset => cases h; exact .inr (.inl ⟨rfl, rfl⟩)

/-- Everything a turn can do to the decoder's elements and the receive port (R97 to R102, R142). -/
theorem takeTurn_dec_cases {p : Params} {turn : Turn} {s t : State} (h : takeTurn p turn s = .next t) :
    (t.dec = s.dec ∧ t.receives = s.receives) ∨
    (turn = .reset ∧ t.dec = DecUnit.reset) ∨
    (s.dec.phase = .idle ∧ ∃ cmd timeout, turn = .host cmd ∧ decode cmd = .ok (.dec timeout) ∧
      t.dec = { s.dec with timeout := timeout, slot0 := zeros 8, slot1 := zeros 8, valid := 0b00, phase := .rx0 }) ∨
    (s.dec.phase = .rx0 ∧ ∃ a time, turn = .decoder a time ∧
      t.dec = { storeAnswer .slot0 a s.dec with cause0 := receiveCause .slot0 a, phase := .rx1 } ∧
      t.receives = s.receives ++ [{ timeout := s.dec.timeout, answer := a }]) ∨
    (s.dec.phase = .rx1 ∧ ∃ a time, turn = .decoder a time ∧
      t.dec = { storeAnswer .slot1 a s.dec with phase := .idle } ∧
      t.receives = s.receives ++ [{ timeout := s.dec.timeout, answer := a }]) := by
  cases turn with
  | host cmd =>
    rcases commandStep_next cmd s with ⟨_, h'⟩ | ⟨_, _, _, _, h'⟩ | ⟨timeout, hdec, hidle, h'⟩ <;> cases h'.symm.trans h
    · exact .inl ⟨rfl, rfl⟩
    · exact .inl ⟨rfl, rfl⟩
    · exact .inr (.inr (.inl ⟨hidle, cmd, timeout, rfl, hdec, rfl⟩))
  | encoder a time =>
    cases h
    obtain ⟨hdec, hreceives, -⟩ := decoderView_eq_iff.mp (decoderView_encoderTurn p a time s)
    exact .inl ⟨hdec, hreceives⟩
  | decoder a time =>
    cases h
    rcases decoderTurn_cases p a time s with ⟨_, h⟩ | ⟨hphase, h⟩ | ⟨hphase, h⟩ <;> rw [h]
    · exact .inl ⟨rfl, rfl⟩
    · rw [receiveStep0_eq]
      exact .inr (.inr (.inr (.inl ⟨hphase, a, time, rfl, rfl, rfl⟩)))
    · rw [receiveStep1_eq]
      exact .inr (.inr (.inr (.inr ⟨hphase, a, time, rfl, rfl, rfl⟩)))
  | reset => cases h; exact .inr (.inl ⟨rfl, rfl⟩)

/-! ### The order of the phases -/

/-- Settles O56: each case of what a turn can do to a unit is one of the listed moves. -/
theorem phasesAdvanceInOrder : Obligations.PhasesAdvanceInOrder := by
  intro p turn s t h hreset
  constructor
  · rcases takeTurn_enc_cases h with henc | ⟨hturn, _⟩ | ⟨hphase, _, _, _, _, _, henc⟩ | ⟨hphase, _, henc⟩ |
      ⟨hphase, henc⟩
    · simp [henc]
    · exact absurd hturn hreset
    all_goals simp [henc, hphase]
  · rcases takeTurn_dec_cases h with ⟨hdec, _⟩ | ⟨hturn, _⟩ | ⟨hphase, _, _, _, _, hdec⟩ | ⟨hphase, _, _, _, hdec, _⟩ |
      ⟨hphase, _, _, _, hdec, _⟩
    · simp [hdec]
    · exact absurd hturn hreset
    all_goals simp [hdec, hphase]

/-! ### The frame buffer and its tracker -/

theorem slotData_withPhase (d : DecUnit) (phase : DecPhase) (k : Slot) :
    slotData { d with phase := phase } k = slotData d k := by
  cases k <;> rfl

theorem slotData_withCause0 (d : DecUnit) (cause0 : Cause) (phase : DecPhase) (k : Slot) :
    slotData { d with cause0 := cause0, phase := phase } k = slotData d k := by
  cases k <;> rfl

@[simp] theorem validBit_zero (k : Slot) : validBit 0#2 k = false := by cases k <;> rfl

theorem slotData_storeAnswer_of_ne {k j : Slot} (a : ReceiveAnswer) (d : DecUnit) (h : j ≠ k) :
    slotData (storeAnswer k a d) j = slotData d j := by
  rcases storeAnswer_cases k a d with ⟨f, _, _, hstore, _⟩ | ⟨hstore, _⟩ <;> rw [hstore]
  exact fillSlot_slotData_of_ne f.data d h

theorem validBit_storeAnswer_of_ne {k j : Slot} (a : ReceiveAnswer) (d : DecUnit) (h : j ≠ k) :
    validBit (storeAnswer k a d).valid j = validBit d.valid j := by
  rcases storeAnswer_cases k a d with ⟨f, _, _, hstore, _⟩ | ⟨hstore, _⟩ <;> rw [hstore]
  rw [fillSlot_valid, validBit_setValid_of_ne _ h]

/-- An attempt fills its slot exactly when its cause is OK, if the slot was not filled before (R103, R106). -/
theorem validBit_storeAnswer_iff {k : Slot} (a : ReceiveAnswer) {d : DecUnit} (h : validBit d.valid k = false) :
    validBit (storeAnswer k a d).valid k = true ↔ receiveCause k a = .ok := by
  rcases storeAnswer_cases k a d with ⟨f, _, _, hstore, hcause⟩ | ⟨hstore, hcause, _⟩
  · simp [hstore, hcause, validBit_setValid_self]
  · simp [hstore, hcause, h]

/-- No attempt empties a slot. -/
theorem validBit_storeAnswer_of_true {k j : Slot} (a : ReceiveAnswer) {d : DecUnit} (h : validBit d.valid j = true) :
    validBit (storeAnswer k a d).valid j = true := by
  by_cases hj : j = k
  · subst hj
    rcases storeAnswer_cases j a d with ⟨f, _, _, hstore, _⟩ | ⟨hstore, _⟩
    · rw [hstore, fillSlot_valid, validBit_setValid_self]
    · rw [hstore, h]
  · rw [validBit_storeAnswer_of_ne a d hj, h]

/-- A slot whose data an attempt changes is the attempt's own: it is filled, with the data of the matching frame (R103,
R104). -/
theorem slotData_storeAnswer_of_changed {k j : Slot} {a : ReceiveAnswer} {d : DecUnit}
    (h : slotData (storeAnswer k a d) j ≠ slotData d j) :
    validBit (storeAnswer k a d).valid j = true ∧
      ∃ f, a = .frame f ∧ f.id = slotId j ∧ slotData (storeAnswer k a d) j = f.data := by
  obtain rfl : j = k := by
    by_contra hj
    exact h (slotData_storeAnswer_of_ne a d hj)
  rcases storeAnswer_cases j a d with ⟨f, ha, hid, hstore, _⟩ | ⟨hstore, _⟩
  · rw [hstore, fillSlot_valid, fillSlot_slotData]
    exact ⟨validBit_setValid_self _ j, f, ha, hid, rfl⟩
  · exact absurd (by rw [hstore]) h

/-- An attempt whose cause is OK leaves the data of the matching frame in its slot (R103). -/
theorem slotData_storeAnswer_of_ok {k : Slot} {a : ReceiveAnswer} (d : DecUnit) (h : receiveCause k a = .ok) :
    ∃ f, a = .frame f ∧ f.id = slotId k ∧ slotData (storeAnswer k a d) k = f.data := by
  rcases storeAnswer_cases k a d with ⟨f, ha, hid, hstore, _⟩ | ⟨_, hcause, _⟩
  · exact ⟨f, ha, hid, by rw [hstore, fillSlot_slotData]⟩
  · exact absurd h hcause

/-! ### Who writes the buffers -/

/-- The payload register changes only by an accepted ENC, to its packed record (R12). -/
theorem takeTurn_buf_changed {p : Params} {turn : Turn} {s t : State} (h : takeTurn p turn s = .next t)
    (hreset : turn ≠ .reset) (hbuf : t.enc.buf ≠ s.enc.buf) : s.enc.phase = .idle ∧
      ∃ cmd rot veh, turn = .host cmd ∧ decode cmd = .ok (.enc rot veh) ∧ t.enc.buf = pack rot veh := by
  rcases takeTurn_enc_cases h with henc | ⟨hturn, _⟩ | ⟨hidle, cmd, rot, veh, hturn, hcmd, henc⟩ | ⟨_, _, henc⟩ |
    ⟨_, henc⟩
  · exact absurd (by rw [henc]) hbuf
  · exact absurd hturn hreset
  · exact ⟨hidle, cmd, rot, veh, hturn, hcmd, by rw [henc]⟩
  · exact absurd (by rw [henc]) hbuf
  · exact absurd (by rw [henc]) hbuf

/-- What a turn can do to the latched timeout, the slots and the tracker: nothing, what an accepted DEC does, or what an
attempt does (R15, R16, R17). -/
theorem takeTurn_dec_buffers {p : Params} {turn : Turn} {s t : State} (h : takeTurn p turn s = .next t)
    (hreset : turn ≠ .reset) :
    t.dec = s.dec ∨
    (s.dec.phase = .idle ∧ ∃ cmd, turn = .host cmd ∧ decode cmd = .ok (.dec t.dec.timeout) ∧
      ∀ k, slotData t.dec k = zeros 8) ∨
    (∃ j a time, turn = .decoder a time ∧ t.dec.timeout = s.dec.timeout ∧
      t.dec.valid = (storeAnswer j a s.dec).valid ∧ ∀ k, slotData t.dec k = slotData (storeAnswer j a s.dec) k) := by
  rcases takeTurn_dec_cases h with ⟨hdec, _⟩ | ⟨hturn, _⟩ | ⟨hidle, cmd, timeout, hturn, hcmd, hdec⟩ |
    ⟨_, a, time, hturn, hdec, _⟩ | ⟨_, a, time, hturn, hdec, _⟩
  · exact .inl hdec
  · exact absurd hturn hreset
  · exact .inr (.inl ⟨hidle, cmd, hturn, by rw [hdec, hcmd], fun k => by rw [hdec]; cases k <;> rfl⟩)
  · exact .inr (.inr ⟨.slot0, a, time, hturn, by simp [hdec], by simp [hdec],
      fun k => by rw [hdec, slotData_withCause0]⟩)
  · exact .inr (.inr ⟨.slot1, a, time, hturn, by simp [hdec], by simp [hdec],
      fun k => by rw [hdec, slotData_withPhase]⟩)

/-- Settles O40: the buffers change by the acceptance of a command or by an attempt, and an attempt empties nothing. -/
theorem buffersWrittenOnlyByTheirRules : Obligations.BuffersWrittenOnlyByTheirRules := by
  intro p turn s t h hreset
  refine ⟨takeTurn_buf_changed h hreset, ?_⟩
  rcases takeTurn_dec_buffers h hreset with hdec | ⟨hidle, cmd, hturn, hcmd, hslots⟩ |
    ⟨j, a, time, hturn, htimeout, hvalid, hslots⟩
  · simp +contextual [hdec]
  · exact ⟨fun _ => ⟨hidle, cmd, hturn, hcmd⟩, fun k _ => .inr ⟨hidle, hslots k, cmd, _, hturn, hcmd⟩,
      fun _ _ _ => ⟨hidle, cmd, _, hturn, hcmd⟩⟩
  · refine ⟨fun hne => absurd htimeout hne, fun k hne => .inl ?_, fun k hold hnew => ?_⟩
    · rw [hslots k] at hne ⊢
      obtain ⟨-, f, rfl, hid, hdata⟩ := slotData_storeAnswer_of_changed hne
      exact ⟨f, time, hturn, hid, hdata⟩
    · rw [hvalid, validBit_storeAnswer_of_true a hold] at hnew
      cases hnew

/-! ### The encoder's part of the state invariant -/

/-- R12, R13, R56: every turn keeps what the invariant says of the encoder. -/
theorem takeTurn_keeps_encoderInv {p : Params} {turn : Turn} {s t : State} (h : takeTurn p turn s = .next t)
    (hcause : EncCauseLegal s.enc) (hreserved : ReservedZero s.enc.buf) :
    EncCauseLegal t.enc ∧ ReservedZero t.enc.buf := by
  rcases takeTurn_enc_cases h with henc | ⟨_, henc⟩ | ⟨_, _, rot, veh, _, _, henc⟩ | ⟨_, a, henc⟩ | ⟨_, henc⟩ <;>
    rw [henc]
  · exact ⟨hcause, hreserved⟩
  · exact ⟨.inl rfl, fun i hi _ => getElem_zeros 16 i hi⟩
  · exact ⟨hcause, pack_reserved rot veh⟩
  · exact ⟨sendCause_cases a, hreserved⟩
  · exact ⟨hcause, hreserved⟩

/-! ### The decoder's part of the state invariant -/

/-- What the state invariant says of the decoder and its receive port. -/
structure DecoderInv (s : State) : Prop where
  cause : DecCauseLegal s.dec
  tracker : TrackerLegal s.dec
  slots : SlotsFromFrames s
  unfilled : UnfilledZero s.dec

theorem stateInv_iff (s : State) :
    StateInv s ↔ (EncCauseLegal s.enc ∧ ReservedZero s.enc.buf) ∧ DecoderInv s :=
  ⟨fun h => ⟨⟨h.encCause, h.encReserved⟩, ⟨h.decCause, h.tracker, h.slots, h.unfilled⟩⟩,
    fun ⟨⟨hcause, hreserved⟩, hdec⟩ => ⟨hcause, hreserved, hdec.cause, hdec.tracker, hdec.slots, hdec.unfilled⟩⟩

/-- A matching frame that the last receive delivered, and whose data the slot holds, fills the slot. -/
theorem filledBy_last {s t : State} {k : Slot} {timeout : BitVec 32} {f : Frame}
    (hreceives : t.receives = s.receives ++ [{ timeout := timeout, answer := .frame f }]) (hid : f.id = slotId k)
    (hdata : slotData t.dec k = f.data) : FilledBy t k 0 :=
  ⟨timeout, f, by simp [hreceives], hid, hdata.symm⟩

/-- One receive later, the frame that fills a slot lies one receive further back. -/
theorem FilledBy.succ {s t : State} {k : Slot} {n : Nat} {r : ReceiveRecord} (h : FilledBy s k n)
    (hreceives : t.receives = s.receives ++ [r]) (hdata : slotData t.dec k = slotData s.dec k) :
    FilledBy t k (n + 1) := by
  obtain ⟨timeout, f, hget, hid, hf⟩ := h
  exact ⟨timeout, f, by simpa [hreceives] using hget, hid, hf.trans hdata.symm⟩

theorem decoderInv_congr {s t : State} (hdec : t.dec = s.dec) (hreceives : t.receives = s.receives)
    (h : DecoderInv s) : DecoderInv t := by
  obtain ⟨hcause, htracker, hslots, hunfilled⟩ := h
  refine ⟨hdec ▸ hcause, hdec ▸ htracker, ?_, hdec ▸ hunfilled⟩
  simpa only [SlotsFromFrames, FilledBy, hdec, hreceives] using hslots

/-- The decoder's reset values meet the invariant, whatever was received before (R24, R142). -/
theorem decoderInv_of_reset {t : State} (hdec : t.dec = DecUnit.reset) : DecoderInv t where
  cause := .inl (by rw [hdec]; rfl)
  tracker := by simp [TrackerLegal, hdec, DecUnit.reset]
  slots := by simp [SlotsFromFrames, hdec, DecUnit.reset]
  unfilled := fun k _ => by rw [hdec]; cases k <;> rfl

/-- DEC acceptance clears the tracker and both slots (R97). -/
theorem decoderInv_of_accept {s t : State} {timeout : BitVec 32} (hcause : DecCauseLegal s.dec)
    (hdec : t.dec =
      { s.dec with timeout := timeout, slot0 := zeros 8, slot1 := zeros 8, valid := 0b00, phase := .rx0 }) :
    DecoderInv t where
  cause := by rw [hdec]; exact hcause
  tracker := by simp [TrackerLegal, hdec]
  slots := by simp [SlotsFromFrames, hdec]
  unfilled := fun k _ => by rw [hdec]; cases k <;> rfl

/-- An attempt writes a slot only if it fills it. -/
theorem unfilledZero_storeAnswer {d : DecUnit} (k : Slot) (a : ReceiveAnswer) (h : UnfilledZero d) :
    UnfilledZero (storeAnswer k a d) := by
  intro j hj
  by_cases hchanged : slotData (storeAnswer k a d) j = slotData d j
  · rw [hchanged]
    refine h j (Bool.eq_false_iff.mpr fun hfilled => ?_)
    rw [validBit_storeAnswer_of_true a hfilled] at hj
    cases hj
  · rw [(slotData_storeAnswer_of_changed hchanged).1] at hj
    cases hj

/-- Attempt 1 starts from a cleared tracker, so after it slot 0 is filled exactly if the attempt matched (R101). -/
theorem decoderInv_of_attempt0 {s t : State} {a : ReceiveAnswer} (h : DecoderInv s) (hphase : s.dec.phase = .rx0)
    (hdec : t.dec = { storeAnswer .slot0 a s.dec with cause0 := receiveCause .slot0 a, phase := .rx1 })
    (hreceives : t.receives = s.receives ++ [{ timeout := s.dec.timeout, answer := a }]) : DecoderInv t := by
  obtain ⟨hvalid, -, -⟩ := h.tracker.1 hphase
  have hslot0 : validBit t.dec.valid .slot0 = true ↔ receiveCause .slot0 a = .ok := by
    rw [hdec]
    exact validBit_storeAnswer_iff a (by simp [hvalid])
  have hslot1 : validBit t.dec.valid .slot1 = false := by
    rw [hdec, validBit_storeAnswer_of_ne a s.dec (by decide), hvalid]
    exact validBit_zero .slot1
  refine ⟨?_, ⟨by simp [hdec], fun _ => ⟨hslot1, by rw [hslot0, hdec]⟩⟩, ⟨fun _ hfilled => ?_, by simp [hdec]⟩, ?_⟩
  · rw [hdec]
    exact receiveCause_cases .slot0 a
  · obtain ⟨f, rfl, hid, hdata⟩ := slotData_storeAnswer_of_ok s.dec (hslot0.mp hfilled)
    exact filledBy_last hreceives hid (by rw [hdec, slotData_withCause0, hdata])
  · intro k hk
    rw [hdec] at hk ⊢
    rw [slotData_withCause0]
    exact unfilledZero_storeAnswer .slot0 a h.unfilled k hk

/-- Attempt 2 keeps slot 0, whose frame is now one receive further back, and fills slot 1 exactly if it matched
(R102). -/
theorem decoderInv_of_attempt1 {s t : State} {a : ReceiveAnswer} (h : DecoderInv s) (hphase : s.dec.phase = .rx1)
    (hdec : t.dec = { storeAnswer .slot1 a s.dec with phase := .idle })
    (hreceives : t.receives = s.receives ++ [{ timeout := s.dec.timeout, answer := a }]) : DecoderInv t := by
  obtain ⟨hempty, -⟩ := h.tracker.2 hphase
  refine ⟨?_, by simp [TrackerLegal, hdec], ⟨by simp [hdec], fun _ => ⟨fun hfilled => ?_, fun hfilled => ?_⟩⟩, ?_⟩
  · simpa [DecCauseLegal, hdec] using h.cause
  · rw [hdec, validBit_storeAnswer_of_ne a s.dec (by decide)] at hfilled
    refine (h.slots.1 hphase hfilled).succ hreceives ?_
    rw [hdec, slotData_withPhase, slotData_storeAnswer_of_ne a s.dec (by decide)]
  · rw [hdec, validBit_storeAnswer_iff a hempty] at hfilled
    obtain ⟨f, rfl, hid, hdata⟩ := slotData_storeAnswer_of_ok s.dec hfilled
    exact filledBy_last hreceives hid (by rw [hdec, slotData_withPhase, hdata])
  · intro k hk
    rw [hdec] at hk ⊢
    rw [slotData_withPhase]
    exact unfilledZero_storeAnswer .slot1 a h.unfilled k hk

/-- Every turn keeps what the invariant says of the decoder. -/
theorem takeTurn_keeps_decoderInv {p : Params} {turn : Turn} {s t : State} (h : takeTurn p turn s = .next t)
    (hinv : DecoderInv s) : DecoderInv t := by
  rcases takeTurn_dec_cases h with ⟨hdec, hreceives⟩ | ⟨_, hdec⟩ | ⟨_, _, _, _, _, hdec⟩ |
    ⟨hphase, _, _, _, hdec, hreceives⟩ | ⟨hphase, _, _, _, hdec, hreceives⟩
  · exact decoderInv_congr hdec hreceives hinv
  · exact decoderInv_of_reset hdec
  · exact decoderInv_of_accept hinv.cause hdec
  · exact decoderInv_of_attempt0 hinv hphase hdec hreceives
  · exact decoderInv_of_attempt1 hinv hphase hdec hreceives

/-! ### The state invariant -/

/-- Every turn keeps the state invariant (R26). -/
theorem takeTurn_keeps_stateInv {p : Params} {turn : Turn} {s t : State} (h : takeTurn p turn s = .next t)
    (hinv : StateInv s) : StateInv t := by
  obtain ⟨⟨hcause, hreserved⟩, hdec⟩ := (stateInv_iff s).mp hinv
  exact (stateInv_iff t).mpr ⟨takeTurn_keeps_encoderInv h hcause hreserved, takeTurn_keeps_decoderInv h hdec⟩

/-- Taking the next turn off the schedule writes nothing the state invariant speaks of. -/
theorem stateInv_consumeTurn {s : State} (h : StateInv s) : StateInv s.consumeTurn := by
  obtain ⟨henc, hdec⟩ := (stateInv_iff s).mp h
  exact (stateInv_iff _).mpr ⟨by simpa using henc, decoderInv_congr (by simp) (by simp) hdec⟩

/-- Settles O52: a step is the next turn, and every turn keeps the encoder's and the decoder's part of the invariant. -/
theorem stepKeepsStateInvariant : Obligations.StepKeepsStateInvariant :=
  fun _ _ hinv hstep => takeTurn_keeps_stateInv hstep (stateInv_consumeTurn hinv)

/-! ### Reset -/

/-- Settles O49: power-on and the reset step set the same values. -/
theorem resetValues : Obligations.ResetValues :=
  ⟨rfl, rfl, rfl, rfl, rfl, rfl, rfl, rfl, rfl, rfl, rfl,
    fun _ s => ⟨resetStep s, rfl, resetStep_enc s, resetStep_dec s⟩⟩

theorem stateInv_reset : StateInv State.reset :=
  (stateInv_iff _).mpr ⟨⟨.inl rfl, fun i hi _ => getElem_zeros 16 i hi⟩, decoderInv_of_reset rfl⟩

/-- Settles O54: the reset values meet the state invariant, and the histories are empty. -/
theorem resetMeetsInvariants : Obligations.ResetMeetsInvariants :=
  ⟨stateInv_reset, stateInv_reset, fun _ h => absurd h List.not_mem_nil, fun _ h => absurd h List.not_mem_nil⟩

/-! ### The event history -/

/-- At `s`, the step function `f` answers a next state with new events appended, and answers the same over any other
history (R23). -/
def AppendsUnread (f : State → Host.Outcome State Fault Refusal) (s : State) : Prop :=
  ∃ t new, f s = .next t ∧ t.events = s.events ++ new ∧
    ∀ history, f { s with events := history } = .next { t with events := history ++ new }

theorem execEnc_appendsUnread (rot veh : BitVec 16) (s : State) : AppendsUnread (execEnc rot veh) s := by
  rcases execEnc_cases rot veh s with ⟨hphase, h⟩ | ⟨hphase, h⟩
  · exact ⟨_, _, h, rfl, fun history => by simp [execEnc, encBusy, hphase, State.respond, State.emit]⟩
  · exact ⟨_, _, h, rfl, fun history => by simp [execEnc, encBusy, hphase, State.respond, State.emit, encAccept]⟩

theorem execDec_appendsUnread (timeout : BitVec 32) (s : State) : AppendsUnread (execDec timeout) s := by
  rcases execDec_cases timeout s with ⟨hphase, h⟩ | ⟨hphase, h⟩
  · exact ⟨_, _, h, rfl, fun history => by simp [execDec, decBusy, hphase, State.respond, State.emit]⟩
  · exact ⟨_, _, h, rfl, fun history => by simp [execDec, decBusy, hphase, State.respond, State.emit, decAccept]⟩

theorem commandStep_appendsUnread (cmd : Word) (s : State) : AppendsUnread (commandStep cmd) s := by
  cases hdec : decode cmd with
  | error e =>
    have h : commandStep cmd = fun s => .next (s.respond (opcodeField cmd) (decodeErrorCause e)) := by
      funext s; simp only [commandStep, hdec]
    rw [h]
    exact ⟨_, _, rfl, rfl, fun _ => rfl⟩
  | ok i =>
    have h : commandStep cmd = exec i := by funext s; simp only [commandStep, hdec]
    rw [h]
    cases i with
    | enc rot veh => exact execEnc_appendsUnread rot veh s
    | dec timeout => exact execDec_appendsUnread timeout s

theorem takeTurn_encoder_appendsUnread (p : Params) (a : SendAnswer) (time : Nat) (s : State) :
    AppendsUnread (takeTurn p (.encoder a time)) s := by
  rcases encoderTurn_cases p a time s with ⟨hphase, h⟩ | ⟨hphase, h⟩ | ⟨hphase, h⟩
  · exact ⟨s, [], congrArg Host.Outcome.next h, by simp, fun history => by simp [takeTurn, encoderTurn, hphase]⟩
  · exact ⟨_, _, congrArg Host.Outcome.next (h.trans (sendStep0_eq p a time s)), rfl,
      fun history => by simp [takeTurn, encoderTurn, hphase, sendStep0_eq]⟩
  · exact ⟨_, _, congrArg Host.Outcome.next (h.trans (sendStep1_eq p a time s)), rfl,
      fun history => by simp [takeTurn, encoderTurn, hphase, sendStep1_eq]⟩

theorem takeTurn_decoder_appendsUnread (p : Params) (a : ReceiveAnswer) (time : Nat) (s : State) :
    AppendsUnread (takeTurn p (.decoder a time)) s := by
  rcases decoderTurn_cases p a time s with ⟨hphase, h⟩ | ⟨hphase, h⟩ | ⟨hphase, h⟩
  · exact ⟨s, [], congrArg Host.Outcome.next h, by simp, fun history => by simp [takeTurn, decoderTurn, hphase]⟩
  · exact ⟨_, _, congrArg Host.Outcome.next (h.trans (receiveStep0_eq p a time s)), rfl,
      fun history => by simp [takeTurn, decoderTurn, hphase, receiveStep0_eq]⟩
  · exact ⟨_, _, congrArg Host.Outcome.next (h.trans (receiveStep1_eq p a time s)), rfl,
      fun history => by simp [takeTurn, decoderTurn, hphase, receiveStep1_eq]⟩

theorem takeTurn_appendsUnread (p : Params) (turn : Turn) (s : State) : AppendsUnread (takeTurn p turn) s := by
  cases turn with
  | host cmd => exact commandStep_appendsUnread cmd s
  | encoder a time => exact takeTurn_encoder_appendsUnread p a time s
  | decoder a time => exact takeTurn_decoder_appendsUnread p a time s
  | reset => exact ⟨resetStep s, [], rfl, by simp, fun _ => by simp [takeTurn, resetStep]⟩

theorem consumeTurn_withEvents (s : State) (history : List Event) :
    ({ s with events := history } : State).consumeTurn = { s.consumeTurn with events := history } := by
  cases h : s.schedule <;> simp [State.consumeTurn, h]

/-- Settles O43: which turn is next does not depend on the history, and every turn appends to it unread. -/
theorem historyAppendOnlyAndNeverRead : Obligations.HistoryAppendOnlyAndNeverRead := by
  intro s
  obtain ⟨t, new, ht, hevents, hunread⟩ := takeTurn_appendsUnread Config.params s.nextTurn s.consumeTurn
  refine ⟨t, new, ht, by simpa using hevents, fun history => ?_⟩
  rw [step, consumeTurn_withEvents]
  exact hunread history

end Sys2Proof.Safety

/-! PROOFS. The payload as the command's operand, an offered word, and the events of one turn in their order. -/

namespace Sys2Proof.Safety

open Sys2Proof.Machine

/-! ### The mixed-width views of the payload -/

/-- A 16-bit field is its two bytes, the high one first (R31). -/
theorem bytes_of_field (v : BitVec 16) : (v.extractLsb' 8 8 ++ v.extractLsb' 0 8 : BitVec (8 + 8)) = v := by
  rw [BitVec.extractLsb'_append_extractLsb'_eq_extractLsb' (by rfl)]
  exact BitVec.extractLsb'_eq_self

/-- Appending four bytes one by one is appending them as one 32-bit word. -/
theorem append_four_bytes (x : BitVec 32) (a b c d : Byte) : x ++ a ++ b ++ c ++ d = x ++ (a ++ b ++ c ++ d) := by
  rw [BitVec.append_assoc' (x₁ := x), BitVec.append_assoc' (x₁ := x), BitVec.append_assoc' (x₁ := x)]
  rfl

/-- The first four payload bytes are the operand of ENC (R33, R48). -/
theorem pack_operand (rot veh : BitVec 16) :
    (pack rot veh)[0] ++ (pack rot veh)[1] ++ (pack rot veh)[2] ++ (pack rot veh)[3] =
      operandOf (.enc rot veh) := by
  have hassoc : (pack rot veh)[0] ++ (pack rot veh)[1] ++ (pack rot veh)[2] ++ (pack rot veh)[3] =
      (rot.extractLsb' 8 8 ++ rot.extractLsb' 0 8) ++ (veh.extractLsb' 8 8 ++ veh.extractLsb' 0 8) :=
    BitVec.append_assoc
  rw [hassoc, bytes_of_field, bytes_of_field, operandOf]

/-- Settles O16: both views are the operand of ENC; frame 0 adds the first four reserved bytes, which are zero. -/
theorem payloadIsCommandOperand : Obligations.PayloadIsCommandOperand := by
  intro rot veh
  obtain ⟨-, -, -, hoperand⟩ := Laws.FixedFields.enc rot veh
  refine ⟨(pack_operand rot veh).trans hoperand.symm, ?_⟩
  simp only [txFrame, split_slot0_getElem, pack_operand, pack_reserved, Nat.reduceLeDiff]
  exact append_four_bytes (rot ++ veh) 0 0 0 0

/-! ### An offered word -/

theorem decode_tableWord {nbits w : Nat} {i : Instr} (h : decodeTableWord nbits w = some i) :
    decode (tableWord nbits w) = .ok i := by
  unfold decodeTableWord at h
  split_ifs at h
  cases hdec : decode (tableWord nbits w) with
  | error e => simp [hdec] at h
  | ok j => simpa [hdec] using h

theorem commandStep_of_decode {cmd : Word} {i : Instr} (h : decode cmd = .ok i) (s : State) :
    commandStep cmd s = exec i s := by
  simp only [commandStep, h]

/-- Settles O24: the offered word heads the schedule, so the next step is its command step. -/
theorem offeredWordRunsNext : Obligations.OfferedWordRunsNext := by
  intro s nbits w i h
  calc step (s.withFetchWord nbits w)
    _ = takeTurn Config.params (.host (tableWord nbits w)) s := step_of_schedule rfl
    _ = exec i s := commandStep_of_decode (decode_tableWord h) s

/-! ### The events of one turn -/

/-- A command step appends its CmdResp alone (R57, R69). -/
theorem commandStep_events (cmd : Word) (s : State) : ∃ t cause,
    commandStep cmd s = .next t ∧ t.events = s.events ++ [.cmdResp (opcodeField cmd) cause] := by
  rcases commandStep_next cmd s with ⟨cause, h⟩ | ⟨rot, veh, _, _, h⟩ | ⟨timeout, _, _, h⟩
  · exact ⟨_, cause, h, rfl⟩
  · exact ⟨_, .ok, h, rfl⟩
  · exact ⟨_, .ok, h, rfl⟩

/-- A send step appends its Trace, and after it the EncDone if the cycle ends (R90, R91). -/
theorem encoderTurn_events (p : Params) (a : SendAnswer) (time : Nat) (s : State) : ∃ new,
    (encoderTurn p a time s).events = s.events ++ new ∧
    ((s.enc.phase = .idle ∧ new = []) ∨ (s.enc.phase = .send0 ∧ ∃ tr, new = [.trace tr]) ∨
      (s.enc.phase = .send1 ∧ ∃ tr tx0 tx1, new = [.trace tr, .encDone tx0 tx1])) := by
  rcases encoderTurn_cases p a time s with ⟨hphase, h⟩ | ⟨hphase, h⟩ | ⟨hphase, h⟩ <;> rw [h]
  · exact ⟨[], by simp, .inl ⟨hphase, rfl⟩⟩
  · rw [sendStep0_eq]
    exact ⟨_, rfl, .inr (.inl ⟨hphase, _, rfl⟩)⟩
  · rw [sendStep1_eq]
    exact ⟨_, rfl, .inr (.inr ⟨hphase, _, _, _, rfl⟩)⟩

/-- A receive step appends the Trace of its attempt, if there is one, and after it the DecDone if the cycle ends (R101,
R102). -/
theorem decoderTurn_events (p : Params) (a : ReceiveAnswer) (time : Nat) (s : State) : ∃ new,
    (decoderTurn p a time s).events = s.events ++ new ∧
    ((s.dec.phase = .idle ∧ new = []) ∨
      (s.dec.phase = .rx0 ∧ ∃ tr : List Trace, tr.length ≤ 1 ∧ new = tr.map .trace) ∨
      (s.dec.phase = .rx1 ∧ ∃ (tr : List Trace) (rx0 rx1 rec : Cause) (record : Option Record),
        tr.length ≤ 1 ∧ new = tr.map .trace ++ [.decDone rx0 rx1 rec record])) := by
  rcases decoderTurn_cases p a time s with ⟨hphase, h⟩ | ⟨hphase, h⟩ | ⟨hphase, h⟩ <;> rw [h]
  · exact ⟨[], by simp, .inl ⟨hphase, rfl⟩⟩
  · rw [receiveStep0_eq]
    exact ⟨_, rfl, .inr (.inl ⟨hphase, _, Option.length_toList_le, rfl⟩)⟩
  · rw [receiveStep1_eq, decDoneEvent_eq]
    exact ⟨_, rfl, .inr (.inr ⟨hphase, _, _, _, _, _, Option.length_toList_le, rfl⟩)⟩

/-- Settles O42, one agent's turn at a time. -/
theorem eventOrderWithinStep : Obligations.EventOrderWithinStep := by
  intro p turn s
  cases turn with
  | host cmd =>
    obtain ⟨t, cause, ht, hevents⟩ := commandStep_events cmd s
    exact ⟨t, _, ht, hevents, fun _ heq => by cases heq; exact ⟨cause, rfl⟩, nofun, nofun, nofun⟩
  | encoder a time =>
    obtain ⟨new, hevents, hnew⟩ := encoderTurn_events p a time s
    exact ⟨_, new, rfl, hevents, nofun, fun _ _ _ => hnew, nofun, nofun⟩
  | decoder a time =>
    obtain ⟨new, hevents, hnew⟩ := decoderTurn_events p a time s
    exact ⟨_, new, rfl, hevents, nofun, nofun, fun _ _ _ => hnew, nofun⟩
  | reset => exact ⟨_, [], rfl, by simp, nofun, nofun, nofun, fun _ => rfl⟩

end Sys2Proof.Safety

/-! PROOFS. What the decoder answers, said once, and the statements about the encodings: the command words, the opcode
table, the assembler, the packed events. -/

namespace Sys2Proof

open Sys2Proof.Machine

/-! ### The decoder's answers -/

theorem opcodeAllocated_iff (op : BitVec 8) : opcodeAllocated op = true ↔ op = opcodeEnc ∨ op = opcodeDec := by
  simp [opcodeAllocated]

theorem opcodeDec_ne_opcodeEnc : opcodeDec ≠ opcodeEnc := by decide

theorem wordWellFormed_iff (cmd : Word) : wordWellFormed cmd = true ↔
    (opcodeField cmd = opcodeEnc ∨ opcodeField cmd = opcodeDec) ∧ rsvField cmd = 0#24 := by
  simp [wordWellFormed, opcodeAllocated_iff]

/-- The four answers of the decoder, each with the words that get it (R47 to R50). -/
theorem decode_cases (cmd : Word) :
    (¬ (opcodeField cmd = opcodeEnc ∨ opcodeField cmd = opcodeDec) ∧ decode cmd = .error .illegalOpcode) ∨
    ((opcodeField cmd = opcodeEnc ∨ opcodeField cmd = opcodeDec) ∧ rsvField cmd ≠ 0#24 ∧
      decode cmd = .error .reservedNonzero) ∨
    (opcodeField cmd = opcodeEnc ∧ rsvField cmd = 0#24 ∧ decode cmd = .ok (.enc (rotField cmd) (vehField cmd))) ∨
    (opcodeField cmd = opcodeDec ∧ rsvField cmd = 0#24 ∧ decode cmd = .ok (.dec (timeoutField cmd))) := by
  unfold decode
  split_ifs with halloc hrsv henc
  · exact .inl ⟨by rw [← opcodeAllocated_iff, halloc]; simp, rfl⟩
  · exact .inr (.inl ⟨(opcodeAllocated_iff _).mp (by simpa using halloc), hrsv, rfl⟩)
  · exact .inr (.inr (.inl ⟨henc, not_not.mp hrsv, rfl⟩))
  · have hop := (opcodeAllocated_iff _).mp (by simpa using halloc)
    exact .inr (.inr (.inr ⟨hop.resolve_left henc, not_not.mp hrsv, rfl⟩))

theorem decode_eq_illegalOpcode_iff (cmd : Word) : decode cmd = .error .illegalOpcode ↔
    opcodeField cmd ≠ opcodeEnc ∧ opcodeField cmd ≠ opcodeDec := by
  rw [← not_or]
  rcases decode_cases cmd with ⟨hop, h⟩ | ⟨hop, _, h⟩ | ⟨hop, _, h⟩ | ⟨hop, _, h⟩ <;> simp [h, hop]

theorem decode_eq_reservedNonzero_iff (cmd : Word) : decode cmd = .error .reservedNonzero ↔
    (opcodeField cmd = opcodeEnc ∨ opcodeField cmd = opcodeDec) ∧ rsvField cmd ≠ 0#24 := by
  rcases decode_cases cmd with ⟨hop, h⟩ | ⟨hop, hrsv, h⟩ | ⟨_, hrsv, h⟩ | ⟨_, hrsv, h⟩
  · simp [h, hop]
  · simp [h, hop, hrsv]
  · simp [h, hrsv]
  · simp [h, hrsv]

theorem decode_eq_enc_iff (cmd : Word) (rot veh : BitVec 16) : decode cmd = .ok (.enc rot veh) ↔
    opcodeField cmd = opcodeEnc ∧ rsvField cmd = 0#24 ∧ rotField cmd = rot ∧ vehField cmd = veh := by
  rcases decode_cases cmd with ⟨hop, h⟩ | ⟨_, hrsv, h⟩ | ⟨hop, hrsv, h⟩ | ⟨hop, _, h⟩
  · simp [h, (not_or.mp hop).1]
  · simp [h, hrsv]
  · simp [h, hop, hrsv]
  · simp [h, hop, opcodeDec_ne_opcodeEnc]

theorem decode_eq_dec_iff (cmd : Word) (timeout : BitVec 32) : decode cmd = .ok (.dec timeout) ↔
    opcodeField cmd = opcodeDec ∧ rsvField cmd = 0#24 ∧ timeoutField cmd = timeout := by
  rcases decode_cases cmd with ⟨hop, h⟩ | ⟨_, hrsv, h⟩ | ⟨hop, _, h⟩ | ⟨hop, hrsv, h⟩
  · simp [h, (not_or.mp hop).2]
  · simp [h, hrsv]
  · simp [h, hop, opcodeDec_ne_opcodeEnc.symm]
  · simp [h, hop, hrsv]

theorem exists_decode_iff (cmd : Word) : (∃ i, decode cmd = .ok i) ↔ wordWellFormed cmd = true := by
  rw [wordWellFormed_iff]
  rcases decode_cases cmd with ⟨hop, h⟩ | ⟨_, hrsv, h⟩ | ⟨hop, hrsv, h⟩ | ⟨hop, hrsv, h⟩
  · simp [h, hop]
  · simp [h, hrsv]
  · simp [h, hop, hrsv]
  · simp [h, hop, hrsv]

/-- Settles O3: the opcode test, the reserved test, and the words that pass both. -/
theorem wordClassesPartitionTheCommandSpace : Obligations.WordClassesPartitionTheCommandSpace := fun cmd =>
  ⟨decode_eq_illegalOpcode_iff cmd, decode_eq_reservedNonzero_iff cmd,
    (exists_decode_iff cmd).trans (wordWellFormed_iff cmd), exists_decode_iff cmd,
    (decode_eq_illegalOpcode_iff 0).mpr (by decide)⟩

/-- Settles O6: each word's fields, read off. -/
theorem writtenWordsDecode : Obligations.WrittenWordsDecode :=
  ⟨(decode_eq_enc_iff _ _ _).mpr (by decide), (decode_eq_enc_iff _ _ _).mpr (by decide),
    (decode_eq_dec_iff _ _).mpr (by decide), (decode_eq_dec_iff _ _).mpr (by decide),
    (decode_eq_illegalOpcode_iff _).mpr (by decide), (decode_eq_reservedNonzero_iff _).mpr (by decide)⟩

/-! ### The decoder and the encoder undo each other -/

/-- Settles O1: the fields of a command's word are the command's own. -/
theorem decodeInvertsEncode : Obligations.DecodeInvertsEncode := by
  intro i
  cases i with
  | enc rot veh =>
    obtain ⟨-, hop, hrsv, -⟩ := Laws.FixedFields.enc rot veh
    have hrot : rotField (encode (.enc rot veh)) = rot :=
      (extractLsb'_operand _ _ _ 16 16 (by decide)).trans (high_of_append rot veh)
    have hveh : vehField (encode (.enc rot veh)) = veh :=
      (extractLsb'_operand _ _ _ 0 16 (by decide)).trans (low_of_append rot veh)
    exact (decode_eq_enc_iff _ rot veh).mpr ⟨hop, hrsv, hrot, hveh⟩
  | dec timeout =>
    obtain ⟨-, hop, hrsv, htimeout⟩ := Laws.FixedFields.dec timeout
    exact (decode_eq_dec_iff _ timeout).mpr ⟨hop, hrsv, htimeout⟩

/-- A command's word is the one whose opcode and operand are the command's and whose reserved field is zero (R46). -/
theorem encode_eq_of_fields {cmd : Word} {i : Instr} (hop : opcodeField cmd = opcodeOf i)
    (hrsv : rsvField cmd = 0#24) (hoperand : cmd.extractLsb' 0 32 = operandOf i) : encode i = cmd := by
  have hword := word_of_fields cmd
  rw [rsvField] at hrsv
  rw [hrsv, hoperand] at hword
  rw [encode, ← hop]
  exact hword

/-- Settles O2: a word that decodes has a zero reserved field, and its other fields are in the command. -/
theorem encodeInvertsDecode : Obligations.EncodeInvertsDecode := by
  intro cmd i h
  cases i with
  | enc rot veh =>
    obtain ⟨hop, hrsv, rfl, rfl⟩ := (decode_eq_enc_iff cmd rot veh).mp h
    exact encode_eq_of_fields hop hrsv (rot_veh_operand cmd).symm
  | dec timeout =>
    obtain ⟨hop, hrsv, rfl⟩ := (decode_eq_dec_iff cmd timeout).mp h
    exact encode_eq_of_fields hop hrsv rfl

/-- Settles O4: R48's fields, and the payload's first four bytes as the operand. -/
theorem encOperandFields : Obligations.EncOperandFields := fun cmd hop hrsv =>
  ⟨(decode_eq_enc_iff cmd _ _).mpr ⟨hop, hrsv, rfl, rfl⟩,
    (Safety.pack_operand (rotField cmd) (vehField cmd)).trans (rot_veh_operand cmd)⟩

/-! ### The rows of the opcode table -/

/-- The mask of both rows keeps the opcode and the reserved field of a word. -/
theorem and_rowMask (cmd : Word) :
    cmd &&& 0xFFFFFFFF00000000 = (opcodeField cmd ++ rsvField cmd ++ 0#32 : Word) := by
  have hmask : (0xFFFFFFFF00000000 : Word) = BitVec.allOnes 8 ++ BitVec.allOnes 24 ++ 0#32 := by decide
  conv_lhs => rw [← word_of_fields cmd, hmask]
  rw [BitVec.and_append, BitVec.and_append, BitVec.and_allOnes, BitVec.and_allOnes]
  simp [opcodeField, rsvField]

theorem and_rowMask_eq_iff (cmd : Word) (op : BitVec 8) :
    cmd &&& 0xFFFFFFFF00000000 = (op ++ 0#24 ++ 0#32 : Word) ↔
      opcodeField cmd = op ∧ rsvField cmd = 0#24 := by
  rw [and_rowMask]
  refine ⟨fun h => ?_, fun ⟨hop, hrsv⟩ => by rw [hop, hrsv]⟩
  exact ⟨(opcodeField_word _ _ _).symm.trans ((congrArg opcodeField h).trans (opcodeField_word op _ _)),
    (rsvField_word _ _ _).symm.trans ((congrArg rsvField h).trans (rsvField_word op _ _))⟩

/-- Settles O5: under the mask stand the opcode and the reserved field, which decide the row. -/
theorem opcodeTableRowsDecide : Obligations.OpcodeTableRowsDecide := by
  intro cmd
  refine ⟨.trans ?_ (and_rowMask_eq_iff cmd opcodeEnc).symm, .trans ?_ (and_rowMask_eq_iff cmd opcodeDec).symm⟩
  · simp [decode_eq_enc_iff]
  · simp [decode_eq_dec_iff]

/-! ### The assembler's words -/

/-- The word of a command as the bitwise or of its shifted fields (R46, R65). -/
theorem encode_eq_or (i : Instr) :
    encode i = (opcodeOf i).setWidth 64 <<< 56 ||| (operandOf i).setWidth 64 := by
  have h : (encode i).setWidth 64 = (opcodeOf i).setWidth 64 <<< (24 + 32) |||
      (0#24).setWidth 64 <<< 32 ||| (operandOf i).setWidth 64 :=
    BitVec.setWidth_append_append_eq_shiftLeft_setWidth_or
  simpa using h

theorem encode_enc_of_le {rot veh : Nat} (hrot : rot ≤ 65535) (hveh : veh ≤ 65535) :
    encode (.enc (.ofNat 16 rot) (.ofNat 16 veh)) =
      0x0100000000000000#64 ||| BitVec.ofNat 64 rot <<< 16 ||| BitVec.ofNat 64 veh := by
  have hoperand : (operandOf (.enc (.ofNat 16 rot) (.ofNat 16 veh))).setWidth 64 =
      BitVec.ofNat 64 rot <<< 16 ||| BitVec.ofNat 64 veh := by
    rw [operandOf, BitVec.setWidth_append_eq_shiftLeft_setWidth_or,
      BitVec.setWidth_ofNat_of_le_of_lt (by decide) (by omega),
      BitVec.setWidth_ofNat_of_le_of_lt (by decide) (by omega)]
  have hopcode : opcodeEnc.setWidth 64 <<< 56 = 0x0100000000000000#64 := by decide
  rw [encode_eq_or, hoperand, opcodeOf, hopcode, BitVec.or_assoc]

theorem encode_dec_of_le {timeout : Nat} (h : timeout ≤ 4294967295) :
    encode (.dec (.ofNat 32 timeout)) = 0x0200000000000000#64 ||| BitVec.ofNat 64 timeout := by
  have hopcode : opcodeDec.setWidth 64 <<< 56 = 0x0200000000000000#64 := by decide
  rw [encode_eq_or, opcodeOf, hopcode, operandOf, BitVec.setWidth_ofNat_of_le_of_lt (by decide) (by omega)]

/-- Settles O7: an operand in range is its own field, and one out of range is rejected. -/
theorem assemblerWords : Obligations.AssemblerWords := by
  refine ⟨fun rot veh hrot hveh => ?_, fun rot veh h => ?_, fun timeout h => ?_, fun timeout h => ?_, fun word => ?_,
    fun word h => ?_⟩
  · rw [assembleSource, if_pos ⟨hrot, hveh⟩, encode_enc_of_le hrot hveh]
  · rw [assembleSource, if_neg (by omega)]
  · rw [assembleSource, if_pos h, encode_dec_of_le h]
  · rw [assembleSource, if_neg (by omega)]
  · rw [assembleSource, if_pos word.isLt, BitVec.ofNat_toNat, BitVec.setWidth_eq]
  · rw [assembleSource, if_neg (by omega)]

/-! ### The packed events -/

/-- Settles O46: each field is an operand of the appends that make the word. -/
theorem packedEventWords : Obligations.PackedEventWords := by
  refine ⟨fun opcode cause => ⟨?_, ?_, ?_⟩, fun tx0 tx1 => ⟨?_, ?_⟩, fun rx0 rx1 rec => ⟨?_, ?_, ?_, ?_⟩,
    fun r => ⟨?_, ?_⟩, fun rx0 rx1 rec record => ?_⟩
  · exact BitVec.extractLsb'_append_eq_right
  · exact (BitVec.extractLsb'_append_eq_of_le (by decide)).trans BitVec.extractLsb'_append_eq_right
  · exact (BitVec.extractLsb'_append_eq_of_le (by decide)).trans BitVec.extractLsb'_append_eq_left
  · exact BitVec.extractLsb'_append_eq_right
  · exact BitVec.extractLsb'_append_eq_left
  · exact BitVec.extractLsb'_append_eq_right
  · exact (BitVec.extractLsb'_append_eq_of_le (by decide)).trans BitVec.extractLsb'_append_eq_right
  · exact (BitVec.extractLsb'_append_eq_of_le (by decide)).trans
      ((BitVec.extractLsb'_append_eq_of_le (by decide)).trans BitVec.extractLsb'_append_eq_right)
  · exact (BitVec.extractLsb'_append_eq_of_le (by decide)).trans
      ((BitVec.extractLsb'_append_eq_of_le (by decide)).trans BitVec.extractLsb'_append_eq_left)
  · exact BitVec.extractLsb'_append_eq_left
  · exact BitVec.extractLsb'_append_eq_right
  · rw [eventRecData, Option.map_eq_none_iff]

/-- Settles O47: the tables of R62 to R64, and no direction with code 3. -/
theorem traceFieldCodes : Obligations.TraceFieldCodes :=
  ⟨rfl, rfl, rfl, fun d => by cases d <;> decide, rfl, rfl, rfl, rfl, rfl, rfl, rfl, rfl, rfl⟩

end Sys2Proof

/-! PROOFS. Every transaction and every event a turn adds to the histories is lawful. -/

namespace Sys2Proof.Safety

open Sys2Proof.Machine

/-- From `s` to `t` the sends and the events grow by lawful ones only. -/
structure AppendsLawful (p : Params) (s t : State) : Prop where
  sends : ∃ sent, t.sends = s.sends ++ sent ∧ ∀ r ∈ sent, SendLawful p r
  events : ∃ new, t.events = s.events ++ new ∧ ∀ e ∈ new, EventLawful e

theorem AppendsLawful.refl (p : Params) (s : State) : AppendsLawful p s s :=
  ⟨⟨[], by simp⟩, ⟨[], by simp⟩⟩

/-! ### The command step -/

/-- The CmdResp of a rejected word (R57, R70). -/
theorem eventLawful_of_decode_error {cmd : Word} {e : DecodeError} (h : decode cmd = .error e) :
    EventLawful (.cmdResp (opcodeField cmd) (decodeErrorCause e)) := by
  cases e with
  | illegalOpcode => exact .inl ⟨rfl, (decode_eq_illegalOpcode_iff cmd).mp h⟩
  | reservedNonzero => exact .inr ⟨.inr (.inl rfl), ((decode_eq_reservedNonzero_iff cmd).mp h).1⟩

/-- The CmdResp of a command (R57, R70). -/
theorem eventLawful_cmdResp (i : Instr) {cause : Cause} (h : cause = .ok ∨ cause = .unitBusy) :
    EventLawful (.cmdResp (opcodeOf i) cause) := by
  refine .inr ⟨h.imp_right .inr, ?_⟩
  cases i with
  | enc rot veh => exact .inl rfl
  | dec timeout => exact .inr rfl

theorem commandStep_event_lawful {cmd : Word} {s t : State} (h : commandStep cmd s = .next t) :
    ∃ e, t.events = s.events ++ [e] ∧ EventLawful e := by
  rcases commandStep_cases cmd s with ⟨e, hdec, hstep⟩ | ⟨i, _, hstep⟩ <;> rw [hstep] at h
  · cases h
    exact ⟨_, rfl, eventLawful_of_decode_error hdec⟩
  · cases i with
    | enc rot veh =>
      rcases execEnc_cases rot veh s with ⟨_, hexec⟩ | ⟨_, hexec⟩ <;> cases hexec.symm.trans h
      · exact ⟨_, rfl, eventLawful_cmdResp (.enc rot veh) (.inr rfl)⟩
      · exact ⟨_, rfl, eventLawful_cmdResp (.enc rot veh) (.inl rfl)⟩
    | dec timeout =>
      rcases execDec_cases timeout s with ⟨_, hexec⟩ | ⟨_, hexec⟩ <;> cases hexec.symm.trans h
      · exact ⟨_, rfl, eventLawful_cmdResp (.dec timeout) (.inr rfl)⟩
      · exact ⟨_, rfl, eventLawful_cmdResp (.dec timeout) (.inl rfl)⟩

theorem commandStep_appendsLawful (p : Params) {cmd : Word} {s t : State} (h : commandStep cmd s = .next t) :
    AppendsLawful p s t := by
  obtain ⟨e, hevents, he⟩ := commandStep_event_lawful h
  exact ⟨⟨[], by simp [(commandStep_transactions h).1]⟩, ⟨[e], hevents, by simpa using he⟩⟩

/-! ### The encoder's turn -/

/-- A frame built from a payload with zero reserved bytes has one of the two wire shapes (R53, R79, R87). -/
theorem sendLawful_txFrame (p : Params) (k : Slot) (a : SendAnswer) {L : Bytes 16} (h : ReservedZero L) :
    SendLawful p { frame := txFrame k L, timeout := p.txTimeout, answer := a } := by
  refine ⟨k, rfl, rfl, rfl, rfl, rfl, ?_, fun i hi h4 => ?_⟩
  · rintro rfl
    refine Vector.ext fun i hi => ?_
    rw [getElem_zeros]
    exact (split_slot1_getElem L i hi).trans (h (8 + i) (by omega) (by omega))
  · cases k with
    | slot0 => exact (split_slot0_getElem L i hi).trans (h i (by omega) h4)
    | slot1 => exact (split_slot1_getElem L i hi).trans (h (8 + i) (by omega) (by omega))

theorem eventLawful_sendTrace (k : Slot) (L : Bytes 16) (a : SendAnswer) (time : Nat) :
    EventLawful (.trace (sendTrace k (txFrame k L) a time)) := by
  refine .inl ⟨rfl, ?_, txFrame k L, rfl, rfl⟩
  cases a with
  | success => exact .inl rfl
  | failure => exact .inr rfl

theorem encoderTurn_appendsLawful (p : Params) (a : SendAnswer) (time : Nat) {s : State}
    (hcause : EncCauseLegal s.enc) (hreserved : ReservedZero s.enc.buf) :
    AppendsLawful p s (encoderTurn p a time s) := by
  rcases encoderTurn_cases p a time s with ⟨_, h⟩ | ⟨_, h⟩ | ⟨_, h⟩ <;> rw [h]
  · exact .refl p s
  · rw [sendStep0_eq]
    exact ⟨⟨_, rfl, by simpa using sendLawful_txFrame p .slot0 a hreserved⟩,
      ⟨_, rfl, by simpa using eventLawful_sendTrace .slot0 s.enc.buf a time⟩⟩
  · rw [sendStep1_eq]
    have hdone : EventLawful (.encDone s.enc.cause0 (sendCause a)) := ⟨hcause, sendCause_cases a⟩
    exact ⟨⟨_, rfl, by simpa using sendLawful_txFrame p .slot1 a hreserved⟩,
      ⟨_, rfl, by simpa using ⟨eventLawful_sendTrace .slot1 s.enc.buf a time, hdone⟩⟩⟩

/-! ### The decoder's turn -/

theorem eventLawful_receiveTrace (p : Params) (k : Slot) (a : ReceiveAnswer) (time : Nat) :
    ∀ e ∈ (receiveTrace p k a time).toList.map Event.trace, EventLawful e := by
  rcases receiveTrace_cases p k a time with ⟨f, _, h⟩ | ⟨_, _, h⟩ | ⟨_, _, h⟩ <;> rw [h]
  · simp [EventLawful]
  · simp [EventLawful]
  · simp

/-- After attempt 2 both slots are filled exactly if both attempts were OK (R107 to R109). -/
theorem bothFilled_storeAnswer_iff {d : DecUnit} (a : ReceiveAnswer) (hphase : d.phase = .rx1) (h : TrackerLegal d) :
    bothFilled (storeAnswer .slot1 a d).valid = true ↔ d.cause0 = .ok ∧ receiveCause .slot1 a = .ok := by
  obtain ⟨hempty, hfirst⟩ := h.2 hphase
  rw [bothFilled_iff, validBit_storeAnswer_iff a hempty, validBit_storeAnswer_of_ne a d (by decide), hfirst]

/-- The DecDone carries a record exactly if both attempts were OK (R59, R102). -/
theorem eventLawful_decDoneEvent {d : DecUnit} (a : ReceiveAnswer) (hphase : d.phase = .rx1) (hcause : DecCauseLegal d)
    (htracker : TrackerLegal d) :
    EventLawful (decDoneEvent (storeAnswer .slot1 a d) (receiveCause .slot1 a)) := by
  rw [decDoneEvent_eq, storeAnswer_cause0]
  refine ⟨hcause, receiveCause_cases .slot1 a, ?_⟩
  have hboth := bothFilled_storeAnswer_iff a hphase htracker
  by_cases hfilled : bothFilled (storeAnswer .slot1 a d).valid = true
  · rw [if_pos hfilled, if_pos hfilled]
    exact .inl ⟨rfl, rfl, hboth.mp hfilled⟩
  · rw [if_neg hfilled, if_neg hfilled]
    exact .inr ⟨rfl, rfl, fun hok => hfilled (hboth.mpr hok)⟩

theorem decoderTurn_appendsLawful (p : Params) (a : ReceiveAnswer) (time : Nat) {s : State}
    (hcause : DecCauseLegal s.dec) (htracker : TrackerLegal s.dec) :
    AppendsLawful p s (decoderTurn p a time s) := by
  refine ⟨⟨[], by simp [(decoderTurn_transactions p a time s).1]⟩, ?_⟩
  rcases decoderTurn_cases p a time s with ⟨_, h⟩ | ⟨_, h⟩ | ⟨hphase, h⟩ <;> rw [h]
  · exact (AppendsLawful.refl p s).events
  · rw [receiveStep0_eq]
    exact ⟨_, rfl, eventLawful_receiveTrace p .slot0 a time⟩
  · rw [receiveStep1_eq]
    refine ⟨_, rfl, List.forall_mem_append.mpr ⟨eventLawful_receiveTrace p .slot1 a time, ?_⟩⟩
    simpa using eventLawful_decDoneEvent a hphase hcause htracker

/-! ### Every turn -/

theorem takeTurn_appendsLawful {p : Params} {turn : Turn} {s t : State} (h : takeTurn p turn s = .next t)
    (hinv : StateInv s) : AppendsLawful p s t := by
  cases turn with
  | host cmd => exact commandStep_appendsLawful p h
  | encoder a time => cases h; exact encoderTurn_appendsLawful p a time hinv.encCause hinv.encReserved
  | decoder a time => cases h; exact decoderTurn_appendsLawful p a time hinv.decCause hinv.tracker
  | reset => cases h; exact ⟨⟨[], by simp⟩, ⟨[], by simp⟩⟩

theorem takeTurn_keeps_historyInv {turn : Turn} {s t : State} (h : takeTurn Config.params turn s = .next t)
    (hinv : HistoryInv s) : HistoryInv t := by
  obtain ⟨⟨sent, hsends, hsent⟩, ⟨new, hevents, hnew⟩⟩ := takeTurn_appendsLawful h hinv.state
  refine ⟨takeTurn_keeps_stateInv h hinv.state, ?_, ?_⟩
  · rw [hsends]
    exact List.forall_mem_append.mpr ⟨hinv.sends, hsent⟩
  · rw [hevents]
    exact List.forall_mem_append.mpr ⟨hinv.events, hnew⟩

/-- Taking the next turn off the schedule writes neither the state elements nor the histories. -/
theorem historyInv_consumeTurn {s : State} (h : HistoryInv s) : HistoryInv s.consumeTurn :=
  ⟨stateInv_consumeTurn h.state, by simpa using h.sends, by simpa using h.events⟩

/-- Settles O53: every turn keeps the state invariant, under which all that it sends and reports is lawful. -/
theorem stepKeepsHistoriesLawful : Obligations.StepKeepsHistoriesLawful :=
  fun _ _ hinv hstep => takeTurn_keeps_historyInv hstep (historyInv_consumeTurn hinv)

end Sys2Proof.Safety

/-! PROOFS. The command port: what ENC and DEC answer from a busy and from an IDLE unit, the whole command step, what a
command leaves unchanged, and the block with both units IDLE. -/

namespace Sys2Proof.Safety

open Sys2Proof.Machine

/-! ### ENC and DEC by the phase of their unit -/

theorem exec_enc_of_busy {s : State} (h : s.enc.phase ≠ .idle) (rot veh : BitVec 16) :
    exec (.enc rot veh) s = .next (s.respond opcodeEnc .unitBusy) :=
  ((execEnc_cases rot veh s).resolve_right fun hidle => h hidle.1).2

theorem exec_enc_of_idle {s : State} (h : s.enc.phase = .idle) (rot veh : BitVec 16) :
    exec (.enc rot veh) s = .next (encAccept rot veh (s.respond opcodeEnc .ok)) :=
  ((execEnc_cases rot veh s).resolve_left fun hbusy => hbusy.1 h).2

theorem exec_dec_of_busy {s : State} (h : s.dec.phase ≠ .idle) (timeout : BitVec 32) :
    exec (.dec timeout) s = .next (s.respond opcodeDec .unitBusy) :=
  ((execDec_cases timeout s).resolve_right fun hidle => h hidle.1).2

theorem exec_dec_of_idle {s : State} (h : s.dec.phase = .idle) (timeout : BitVec 32) :
    exec (.dec timeout) s = .next (decAccept timeout (s.respond opcodeDec .ok)) :=
  ((execDec_cases timeout s).resolve_left fun hbusy => hbusy.1 h).2

/-- Settles O19: a busy unit's command is its CmdResp and nothing else. -/
theorem busyCommandIsLost : Obligations.BusyCommandIsLost := fun _ =>
  ⟨fun rot veh hbusy => exec_enc_of_busy hbusy rot veh, fun timeout hbusy => exec_dec_of_busy hbusy timeout⟩

/-! ### The command step by the word's class -/

theorem commandStep_of_decode_error {cmd : Word} {e : DecodeError} (h : decode cmd = .error e) (s : State) :
    commandStep cmd s = .next (s.respond (opcodeField cmd) (decodeErrorCause e)) := by
  simp only [commandStep, h]

/-- The next state of a command step, chosen by the tests of R70 in their order. -/
theorem commandStep_eq (cmd : Word) (s : State) : commandStep cmd s = .next (
    if opcodeField cmd ≠ opcodeEnc ∧ opcodeField cmd ≠ opcodeDec then s.respond (opcodeField cmd) .illegalOpcode
    else if rsvField cmd ≠ 0#24 then s.respond (opcodeField cmd) .reservedNonzero
    else if opcodeField cmd = opcodeEnc then
      if s.enc.phase ≠ .idle then s.respond (opcodeField cmd) .unitBusy
      else encAccept (rotField cmd) (vehField cmd) (s.respond (opcodeField cmd) .ok)
    else
      if s.dec.phase ≠ .idle then s.respond (opcodeField cmd) .unitBusy
      else decAccept (timeoutField cmd) (s.respond (opcodeField cmd) .ok)) := by
  rcases decode_cases cmd with ⟨hop, hdec⟩ | ⟨hop, hrsv, hdec⟩ | ⟨hop, hrsv, hdec⟩ | ⟨hop, hrsv, hdec⟩
  · rw [commandStep_of_decode_error hdec, if_pos (not_or.mp hop), decodeErrorCause]
  · rw [commandStep_of_decode_error hdec, if_neg (fun hillegal => not_or.mpr hillegal hop), if_pos hrsv,
      decodeErrorCause]
  · rw [commandStep_of_decode hdec]
    by_cases hidle : s.enc.phase = .idle
    · simp [exec_enc_of_idle, hop, hrsv, hidle]
    · simp [exec_enc_of_busy, hop, hrsv, hidle]
  · rw [commandStep_of_decode hdec]
    by_cases hidle : s.dec.phase = .idle
    · simp [exec_dec_of_idle, hop, hrsv, hidle, opcodeDec_ne_opcodeEnc]
    · simp [exec_dec_of_busy, hop, hrsv, hidle, opcodeDec_ne_opcodeEnc]

/-- Settles O20: the fields are the bit ranges of R46 to R49, and the responses and acceptances their updates. -/
theorem commandStepClassifies : Obligations.CommandStepClassifies := fun _ cmd s => commandStep_eq cmd s

/-! ### A command's own unit and the other one -/

/-- A command's word at the command port runs the command. -/
theorem takeTurn_host_encode (p : Params) (i : Instr) (s : State) : takeTurn p (.host (encode i)) s = exec i s :=
  commandStep_of_decode (decodeInvertsEncode i) s

theorem exec_enc_ignores_dec (rot veh : BitVec 16) (s : State) : ∃ t, exec (.enc rot veh) s = .next t ∧
    t.dec = s.dec ∧ ∀ d, exec (.enc rot veh) { s with dec := d } = .next { t with dec := d } := by
  by_cases hidle : s.enc.phase = .idle
  · exact ⟨_, exec_enc_of_idle hidle rot veh, rfl, fun d => exec_enc_of_idle (s := { s with dec := d }) hidle rot veh⟩
  · exact ⟨_, exec_enc_of_busy hidle rot veh, rfl, fun d => exec_enc_of_busy (s := { s with dec := d }) hidle rot veh⟩

theorem exec_dec_ignores_enc (timeout : BitVec 32) (s : State) : ∃ t, exec (.dec timeout) s = .next t ∧
    t.enc = s.enc ∧ ∀ e, exec (.dec timeout) { s with enc := e } = .next { t with enc := e } := by
  by_cases hidle : s.dec.phase = .idle
  · exact ⟨_, exec_dec_of_idle hidle timeout, rfl, fun e => exec_dec_of_idle (s := { s with enc := e }) hidle timeout⟩
  · exact ⟨_, exec_dec_of_busy hidle timeout, rfl, fun e => exec_dec_of_busy (s := { s with enc := e }) hidle timeout⟩

/-- Settles O21: each command reads its own unit's phase alone, so that DEC is accepted while the encoder runs. -/
theorem commandsTouchOnlyTheirUnit : Obligations.CommandsTouchOnlyTheirUnit := by
  intro s rot veh timeout
  refine ⟨exec_enc_ignores_dec rot veh s, exec_dec_ignores_enc timeout s, fun p henc hdec => ?_⟩
  have hfirst := (takeTurn_host_encode p (.enc rot veh) s).trans (exec_enc_of_idle henc rot veh)
  have hsecond := (takeTurn_host_encode p (.dec timeout) _).trans
    (exec_dec_of_idle (s := encAccept rot veh (s.respond opcodeEnc .ok)) hdec timeout)
  exact ⟨_, (runTurns_cons hfirst _).trans (runTurns_cons hsecond []), rfl, rfl⟩

/-- Settles O22: a CmdResp with or without an acceptance, neither of which writes the rest. -/
theorem commandFrame : Obligations.CommandFrame := by
  intro i s
  cases i with
  | enc rot veh =>
    rcases execEnc_cases rot veh s with ⟨_, h⟩ | ⟨_, h⟩ <;> exact ⟨_, _, h, rfl, rfl, rfl, rfl, rfl, rfl, rfl⟩
  | dec timeout =>
    rcases execDec_cases timeout s with ⟨_, h⟩ | ⟨_, h⟩ <;> exact ⟨_, _, h, rfl, rfl, rfl, rfl, rfl, rfl, rfl⟩

/-- Settles O23: a host turn is a command step, and a word that decodes is run. -/
theorem stepRunsDecodedCommand : Obligations.StepRunsDecodedCommand := by
  intro s cmd i hturn hdec
  rw [step, hturn]
  exact commandStep_of_decode hdec s.consumeTurn

/-! ### The block with both units IDLE -/

/-- A unit's turn is none of the block's steps while both units are IDLE (R89, R98; log entry 2). -/
theorem takeTurn_of_idle {turn : Turn} {s : State} (p : Params) (henc : s.enc.phase = .idle)
    (hdec : s.dec.phase = .idle) (hunit : unitTurn turn = true) : takeTurn p turn s = .next s := by
  cases turn with
  | host cmd => cases hunit
  | encoder a time => simp [takeTurn, encoderTurn, henc]
  | decoder a time => simp [takeTurn, decoderTurn, hdec]
  | reset => cases hunit

/-- Settles O58, by induction on the turns. -/
theorem idleBlockStaysAsItIs : Obligations.IdleBlockStaysAsItIs := by
  intro p turns s henc hdec hunits
  induction turns with
  | nil => rfl
  | cons turn turns ih =>
    obtain ⟨hunit, hunits⟩ : unitTurn turn = true ∧ turns.all unitTurn = true := by simpa using hunits
    exact (runTurns_cons (takeTurn_of_idle p henc hdec hunit) turns).trans (ih hunits)

end Sys2Proof.Safety

/-! PROOFS. The field serializer: the frames and their identifiers, the two halves of a payload and their joining, and
the record that extraction reads. -/

namespace Sys2Proof.Safety

open Sys2Proof.Machine

/-! ### The packed payload and its halves -/

/-- The second half of a packed record is reserved bytes only (R78, R87). -/
theorem split_pack_slot1 (rot veh : BitVec 16) : split (pack rot veh) .slot1 = zeros 8 := by
  refine Vector.ext fun i hi => ?_
  rw [split_slot1_getElem, pack_reserved rot veh (8 + i) (by omega) (by omega), getElem_zeros]

/-- Settles O8: the four field bytes and the examples are read off, the rest is reserved. -/
theorem packBytes : Obligations.PackBytes := fun rot veh =>
  ⟨rfl, rfl, rfl, rfl, pack_reserved rot veh, ⟨rfl, rfl⟩, by decide, by decide⟩

/-- Settles O9: byte by byte, and the second half of a packed record is zero. -/
theorem splitBytes : Obligations.SplitBytes :=
  ⟨fun L i h => ⟨split_slot0_getElem L i h, split_slot1_getElem L i h⟩, by decide, split_pack_slot1⟩

/-! ### The frames and their identifiers -/

/-- `slotOf` undoes `slotId`, and names no slot elsewhere (R54, R80). -/
theorem slotOf_eq_some_iff (id : BitVec 29) (k : Slot) : slotOf id = some k ↔ id = slotId k := by
  unfold slotOf
  split_ifs with h0 h1
  · subst h0
    cases k <;> decide
  · subst h1
    cases k <;> decide
  · cases k with
    | slot0 => exact iff_of_false nofun h0
    | slot1 => exact iff_of_false nofun h1

theorem slotOf_eq_none_iff (id : BitVec 29) : slotOf id = none ↔ id ≠ slotId .slot0 ∧ id ≠ slotId .slot1 := by
  have hslots : (∀ k, slotOf id ≠ some k) ↔ slotOf id ≠ some .slot0 ∧ slotOf id ≠ some .slot1 :=
    ⟨fun h => ⟨h .slot0, h .slot1⟩, fun ⟨h0, h1⟩ k => by cases k <;> assumption⟩
  rw [Option.eq_none_iff_forall_ne_some, hslots, Ne, Ne, slotOf_eq_some_iff, slotOf_eq_some_iff]

/-- Settles O10: the example's data is the zero second half of a packed record. -/
theorem txFrameFields : Obligations.TxFrameFields := by
  refine ⟨fun L => ⟨rfl, rfl⟩, ?_⟩
  rw [txFrame, split_pack_slot1, slotId]

/-- Settles O11: `slotOf` and the match of a frame both compare with `slotId`. -/
theorem slotOfIdentifier : Obligations.SlotOfIdentifier := by
  refine fun id => ⟨slotOf_eq_some_iff id .slot0, slotOf_eq_some_iff id .slot1, slotOf_eq_none_iff id, ?_,
    (slotOf_eq_none_iff _).mpr (by decide), (slotOf_eq_none_iff _).mpr (by decide)⟩
  rintro f k rfl
  exact (frameMatches_iff f k).trans (slotOf_eq_some_iff f.id k).symm

/-! ### Joining the halves -/

/-- Joining the two halves of a payload gives it back (R78, R81). -/
theorem assemble_split (L : Bytes 16) : assemble (split L .slot0) (split L .slot1) = L := by
  refine Vector.ext fun i hi => ?_
  by_cases h : i < 8
  · rw [assemble_getElem_low _ _ i h, split_slot0_getElem]
  · obtain ⟨j, rfl⟩ := Nat.exists_eq_add_of_le (not_lt.mp h)
    rw [assemble_getElem_high _ _ j (by omega), split_slot1_getElem]

/-- Settles O12: byte by byte; the example joins the two halves of a packed record. -/
theorem assembleBytes : Obligations.AssembleBytes := by
  refine ⟨fun s0 s1 i h => ⟨assemble_getElem_low s0 s1 i h, assemble_getElem_high s0 s1 i h⟩, ?_⟩
  obtain ⟨-, hfirst, hsecond⟩ := splitBytes
  rw [← hfirst, ← hsecond 3000 80, assemble_split]

/-! ### The record -/

/-- Extraction reads bytes 0 to 3 alone (R82). -/
theorem extract_congr {A B : Bytes 16} (h0 : A[0] = B[0]) (h1 : A[1] = B[1]) (h2 : A[2] = B[2]) (h3 : A[3] = B[3]) :
    extract A = extract B := by
  rw [extract, extract, h0, h1, h2, h3]

/-- Extraction undoes packing (R77, R82). -/
theorem extract_pack (rot veh : BitVec 16) : extract (pack rot veh) = { rotationalSpeed := rot, vehicleSpeed := veh } :=
  congrArg₂ Record.mk (bytes_of_field rot) (bytes_of_field veh)

/-- Bytes 0 to 3 are all in slot 0, so the record is slot 0's (R85). -/
theorem extract_assemble (s0 s1 : Bytes 8) :
    extract (assemble s0 s1) = { rotationalSpeed := s0[0] ++ s0[1], vehicleSpeed := s0[2] ++ s0[3] } := by
  simp only [extract, assemble_getElem_low, Nat.reduceLT]

/-- Settles O13: each field is its two bytes; the example's bytes 0 to 3 are those of a packed record. -/
theorem extractBigEndian : Obligations.ExtractBigEndian := by
  refine ⟨fun A => ⟨?_, ?_, ?_, ?_⟩, fun A B => extract_congr, fun A h0 h1 h2 h3 => ?_⟩
  · exact BitVec.extractLsb'_append_eq_left
  · exact BitVec.extractLsb'_append_eq_right
  · exact BitVec.extractLsb'_append_eq_left
  · exact BitVec.extractLsb'_append_eq_right
  · exact (extract_congr (B := pack 3000 80) h0 h1 h2 h3).trans (extract_pack 3000 80)

/-- Settles O14: joining undoes splitting, and extraction undoes packing. -/
theorem recordRoundTrip : Obligations.RecordRoundTrip := fun rot veh =>
  (congrArg extract (assemble_split (pack rot veh))).trans (extract_pack rot veh)

/-- Settles O15: with either slot 1 the record is the one of slot 0. -/
theorem secondSlotNeverReachesTheRecord : Obligations.SecondSlotNeverReachesTheRecord := fun s0 s1 s1' =>
  ⟨(extract_assemble s0 s1).trans (extract_assemble s0 s1').symm, extract_assemble s0 s1⟩

end Sys2Proof.Safety

/-! PROOFS. The encoder: its acceptance of ENC, its turn in each phase, and the whole encode cycle with the other agents'
turns in between. -/

namespace Sys2Proof.Safety

open Sys2Proof.Machine

/-! ### Acceptance -/

/-- Settles O17: the acceptance of an IDLE encoder, reached from the command and from each of its words. -/
theorem encAcceptedWhenIdle : Obligations.EncAcceptedWhenIdle := fun s hidle =>
  ⟨exec_enc_of_idle hidle, fun _ cmd hop hrsv =>
    (commandStep_of_decode ((decode_eq_enc_iff cmd _ _).mpr ⟨hop, hrsv, rfl, rfl⟩) s).trans
      (exec_enc_of_idle hidle _ _)⟩

/-! ### The encoder's turn by its phase -/

section
variable (p : Params) (a : SendAnswer) (time : Nat) {s : State}

theorem takeTurn_encoder_of_idle (h : s.enc.phase = .idle) : takeTurn p (.encoder a time) s = .next s := by
  simp only [takeTurn, encoderTurn, h]

theorem takeTurn_encoder_of_send0 (h : s.enc.phase = .send0) :
    takeTurn p (.encoder a time) s = .next (sendStep0 p a time s) := by
  simp only [takeTurn, encoderTurn, h]

theorem takeTurn_encoder_of_send1 (h : s.enc.phase = .send1) :
    takeTurn p (.encoder a time) s = .next (sendStep1 p a time s) := by
  simp only [takeTurn, encoderTurn, h]

end

/-- Settles O28: the turn is the slot-0 send step, read for either answer. -/
theorem sendStepSlot0 : Obligations.SendStepSlot0 := by
  intro p a time s hphase
  rw [takeTurn_encoder_of_send0 p a time hphase, sendStep0_eq]
  cases a <;> rfl

/-- Settles O29: the turn is the slot-1 send step, read for either answer. -/
theorem sendStepSlot1 : Obligations.SendStepSlot1 := by
  intro p a time s hphase
  rw [takeTurn_encoder_of_send1 p a time hphase, sendStep1_eq]
  cases a <;> rfl

/-- Settles O30: in each busy phase the turn is a send step, and a send step sends once. -/
theorem encoderStepEnable : Obligations.EncoderStepEnable := by
  intro p a time s
  refine ⟨takeTurn_encoder_of_idle p a time, fun hbusy => ?_⟩
  cases hphase : s.enc.phase with
  | idle => exact absurd hphase hbusy
  | send0 => exact ⟨_, takeTurn_encoder_of_send0 p a time hphase, by simp [sendStep0_eq]⟩
  | send1 => exact ⟨_, takeTurn_encoder_of_send1 p a time hphase, by simp [sendStep1_eq]⟩

/-! ### The encode cycle -/

/-- From `s` to `t` the encode cycle stands still: the encoder's elements, its port and the EncDone events are the same. -/
structure EncodeCycleKept (s t : State) : Prop where
  enc : t.enc = s.enc
  sends : t.sends = s.sends
  encDones : t.events.filter isEncDone = s.events.filter isEncDone

theorem EncodeCycleKept.trans {s t u : State} (hst : EncodeCycleKept s t) (htu : EncodeCycleKept t u) :
    EncodeCycleKept s u :=
  ⟨htu.enc.trans hst.enc, htu.sends.trans hst.sends, htu.encDones.trans hst.encDones⟩

/-- An EncDone is among the encoder's own events. -/
theorem encoderEvent_of_isEncDone {e : Event} (h : isEncDone e = true) : encoderEvent e = true := by
  cases e with
  | encDone tx0 tx1 => rfl
  | cmdResp opcode cause => cases h
  | decDone rx0 rx1 rec record => cases h
  | trace t => cases h

theorem filter_isEncDone_filter_encoderEvent (events : List Event) :
    (events.filter encoderEvent).filter isEncDone = events.filter isEncDone := by
  rw [List.filter_filter]
  refine List.filter_congr fun e _ => ?_
  cases h : isEncDone e with
  | false => rfl
  | true => exact encoderEvent_of_isEncDone h

/-- What keeps the encoder's view keeps its cycle. -/
theorem encodeCycleKept_of_encoderView {s t : State} (h : encoderView t = encoderView s) : EncodeCycleKept s t := by
  obtain ⟨henc, hsends, hevents⟩ := encoderView_eq_iff.mp h
  refine ⟨henc, hsends, ?_⟩
  rw [← filter_isEncDone_filter_encoderEvent t.events, hevents, filter_isEncDone_filter_encoderEvent]

/-- While the encoder is busy no command step moves its cycle: another ENC is lost (R75). -/
theorem commandStep_keeps_encodeCycle {cmd : Word} {s t : State} (hbusy : s.enc.phase ≠ .idle)
    (h : commandStep cmd s = .next t) : EncodeCycleKept s t := by
  rcases commandStep_next cmd s with ⟨_, h'⟩ | ⟨_, _, _, hidle, _⟩ | ⟨_, _, _, h'⟩
  · cases h'.symm.trans h
    exact ⟨rfl, rfl, by simp [isEncDone]⟩
  · exact absurd hidle hbusy
  · cases h'.symm.trans h
    exact ⟨rfl, rfl, by simp [isEncDone]⟩

/-- While the encoder is busy no turn but its own and a reset moves its cycle (R74, R95). -/
theorem takeTurn_others_keeps_encodeCycle {p : Params} {turn : Turn} {s t : State} (hbusy : s.enc.phase ≠ .idle)
    (hothers : othersThanEncoder turn = true) (h : takeTurn p turn s = .next t) : EncodeCycleKept s t := by
  cases turn with
  | host cmd => exact commandStep_keeps_encodeCycle hbusy h
  | encoder a time => cases hothers
  | decoder a time => cases h; exact encodeCycleKept_of_encoderView (encoderView_decoderTurn p a time s)
  | reset => cases hothers

theorem runTurns_others_keeps_encodeCycle (p : Params) {turns : List Turn} {s : State} (hbusy : s.enc.phase ≠ .idle)
    (hothers : turns.all othersThanEncoder = true) : ∃ t, runTurns p turns s = .next t ∧ EncodeCycleKept s t := by
  induction turns generalizing s with
  | nil => exact ⟨s, rfl, rfl, rfl, rfl⟩
  | cons turn turns ih =>
    obtain ⟨hturn, hturns⟩ : othersThanEncoder turn = true ∧ turns.all othersThanEncoder = true := by
      simpa using hothers
    obtain ⟨u, hu⟩ := takeTurn_total p turn s
    have hkept := takeTurn_others_keeps_encodeCycle hbusy hturn hu
    obtain ⟨t, hrun, hrest⟩ := ih (s := u) (by rwa [hkept.enc]) hturns
    exact ⟨t, (runTurns_cons hu turns).trans hrun, hkept.trans hrest⟩

/-- Settles O31: acceptance and the two send steps move the cycle, and the turns between them leave it as it stands. -/
theorem encodeCycleSendsBothFrames : Obligations.EncodeCycleSendsBothFrames := by
  intro p s rot veh m1 m2 a0 a1 time0 time1 hidle hm1 hm2
  have haccept := (takeTurn_host_encode p (.enc rot veh) s).trans (exec_enc_of_idle hidle rot veh)
  obtain ⟨u, hrun1, hu⟩ := runTurns_others_keeps_encodeCycle p
    (s := encAccept rot veh (s.respond opcodeEnc .ok)) nofun hm1
  have hfirst : runTurns p (.host (encode (.enc rot veh)) :: m1) s = .next u := (runTurns_cons haccept m1).trans hrun1
  have hsend0 := takeTurn_encoder_of_send0 p a0 time0 (s := u) (by rw [hu.enc]; rfl)
  obtain ⟨v, hrun2, hv⟩ := runTurns_others_keeps_encodeCycle p (s := sendStep0 p a0 time0 u) nofun hm2
  have hsecond : runTurns p (.encoder a0 time0 :: m2) u = .next v := (runTurns_cons hsend0 m2).trans hrun2
  have hsend1 := takeTurn_encoder_of_send1 p a1 time1 (s := v) (by rw [hv.enc]; rfl)
  have hvenc : v.enc = { phase := .send1, buf := pack rot veh, cause0 := sendCause a0 } := by
    rw [hv.enc, sendStep0_eq, hu.enc, encAccept_enc]
  refine ⟨sendStep1 p a1 time1 v, ?_, ?_, ?_, ?_, ?_⟩
  · rw [runTurns_append _ _ ((runTurns_append _ _ hfirst).trans hsecond)]
    exact runTurns_cons hsend1 []
  · rw [sendStep1_eq, hvenc]
  · simp [sendStep1_eq, hvenc, hv.sends, sendStep0_eq, hu.enc, hu.sends, txFrame, slotId]
  · simp [sendStep1_eq, hvenc, hv.encDones, sendStep0_eq, hu.encDones, isEncDone]
  · simp [sendStep1_eq, hvenc]

end Sys2Proof.Safety

/-! PROOFS. The decoder: the match of a frame, its acceptance of DEC, the receive attempt, its turn in each phase, and
the whole decode cycle with the other agents' turns in between. -/

namespace Sys2Proof.Safety

open Sys2Proof.Machine

/-! ### The match of a frame -/

/-- Settles O32: a match compares the identifier with the slot's, and reads no other field. -/
theorem matchOnIdentifierAlone : Obligations.MatchOnIdentifierAlone := fun f =>
  ⟨frameMatches_iff f .slot0, frameMatches_iff f .slot1, fun g k hid => by rw [frameMatches, frameMatches, hid]⟩

section
variable {k : Slot} {f : Frame}

theorem receiveCause_of_match (h : f.id = slotId k) : receiveCause k (.frame f) = .ok :=
  if_pos ((frameMatches_iff f k).mpr h)

theorem receiveCause_of_mismatch (h : f.id ≠ slotId k) : receiveCause k (.frame f) = .unexpectedIdentifier :=
  if_neg (mt (frameMatches_iff f k).mp h)

theorem storeAnswer_of_match (h : f.id = slotId k) (d : DecUnit) : storeAnswer k (.frame f) d = fillSlot k f.data d :=
  if_pos ((frameMatches_iff f k).mpr h)

theorem storeAnswer_of_mismatch (h : f.id ≠ slotId k) (d : DecUnit) : storeAnswer k (.frame f) d = d :=
  if_neg (mt (frameMatches_iff f k).mp h)

end

theorem receiveCause_eq_ok_iff (k : Slot) (a : ReceiveAnswer) :
    receiveCause k a = .ok ↔ ∃ f, a = .frame f ∧ f.id = slotId k := by
  rcases storeAnswer_cases k a DecUnit.reset with ⟨f, ha, hid, _, hcause⟩ | ⟨_, hcause, hmismatch⟩
  · exact iff_of_true hcause ⟨f, ha, hid⟩
  · exact iff_of_false hcause fun ⟨f, ha, hid⟩ => hmismatch f ha hid

/-! ### Acceptance -/

/-- Settles O18: the acceptance of an IDLE decoder, reached from the command and from each of its words. -/
theorem decAcceptedWhenIdle : Obligations.DecAcceptedWhenIdle := fun s hidle =>
  ⟨exec_dec_of_idle hidle, fun _ cmd hop hrsv =>
    (commandStep_of_decode ((decode_eq_dec_iff cmd _).mpr ⟨hop, hrsv, rfl⟩) s).trans (exec_dec_of_idle hidle _)⟩

/-! ### The decoder's turn by its phase -/

section
variable (p : Params) (a : ReceiveAnswer) (time : Nat) {s : State}

theorem takeTurn_decoder_of_idle (h : s.dec.phase = .idle) : takeTurn p (.decoder a time) s = .next s := by
  simp only [takeTurn, decoderTurn, h]

theorem takeTurn_decoder_of_rx0 (h : s.dec.phase = .rx0) :
    takeTurn p (.decoder a time) s = .next (receiveStep0 p a time s) := by
  simp only [takeTurn, decoderTurn, h]

theorem takeTurn_decoder_of_rx1 (h : s.dec.phase = .rx1) :
    takeTurn p (.decoder a time) s = .next (receiveStep1 p a time s) := by
  simp only [takeTurn, decoderTurn, h]

end

/-- Settles O36: in each busy phase the turn is a receive step, and a receive step receives once. -/
theorem decoderStepEnable : Obligations.DecoderStepEnable := by
  intro p a time s
  refine ⟨takeTurn_decoder_of_idle p a time, fun hbusy => ?_⟩
  cases hphase : s.dec.phase with
  | idle => exact absurd hphase hbusy
  | rx0 => exact ⟨_, takeTurn_decoder_of_rx0 p a time hphase, by simp [receiveStep0_eq]⟩
  | rx1 => exact ⟨_, takeTurn_decoder_of_rx1 p a time hphase, by simp [receiveStep1_eq]⟩

/-! ### The receive attempt and the two receive steps -/

theorem attempt_timeout (p : Params) (k : Slot) (time : Nat) (s : State) :
    attempt p k .timeout time s = { s with
      receives := s.receives ++ [{ timeout := s.dec.timeout, answer := .timeout }],
      events := if p.traceRxTimeout then
        s.events ++ [.trace { time := time, side := .rx, dir := .failed, label := k, frame := none }]
        else s.events } := by
  cases htrace : p.traceRxTimeout <;> simp [attempt_eq, receiveTrace, storeAnswer, htrace]

theorem attempt_frame (p : Params) (k : Slot) (f : Frame) (time : Nat) (s : State) :
    attempt p k (.frame f) time s = { s with
      receives := s.receives ++ [{ timeout := s.dec.timeout, answer := .frame f }],
      events := s.events ++ [.trace { time := time, side := .rx, dir := .received, label := k, frame := some f }],
      dec := storeAnswer k (.frame f) s.dec } := rfl

/-- Settles O33: the turn is the receive step of its phase, and an attempt is read off each answer. -/
theorem attemptProcedure : Obligations.AttemptProcedure := by
  intro p time s
  refine ⟨fun a => takeTurn_decoder_of_rx0 p a time, fun a => takeTurn_decoder_of_rx1 p a time,
    fun k => ⟨⟨attempt_timeout p k time s, rfl⟩, fun f => ?_⟩⟩
  rw [attempt_frame]
  by_cases hid : f.id = slotId k
  · rw [storeAnswer_of_match hid, receiveCause_of_match hid, if_pos hid, if_pos hid]
    cases k <;> exact ⟨rfl, rfl⟩
  · rw [storeAnswer_of_mismatch hid, receiveCause_of_mismatch hid, if_neg hid, if_neg hid]
    exact ⟨rfl, rfl⟩

/-- Settles O34: the attempt's effect on slot 0 and on cause0, read for each answer. -/
theorem receiveStepSlot0 : Obligations.ReceiveStepSlot0 := by
  intro p a time s hphase
  rw [takeTurn_decoder_of_rx0 p a time hphase, receiveStep0_eq, attempt_eq]
  refine ⟨_, rfl, rfl, rfl, rfl, rfl, rfl, rfl, ?_, ?_, ?_⟩
  · rintro f rfl (hid : f.id = slotId .slot0)
    rw [storeAnswer_of_match hid, receiveCause_of_match hid]
    rfl
  · rintro f rfl (hid : f.id ≠ slotId .slot0)
    rw [storeAnswer_of_mismatch hid, receiveCause_of_mismatch hid]
  · rintro rfl
    rfl

/-- Settles O35: the DecDone reads the tracker after the attempt, and the attempt keeps cause0. -/
theorem receiveStepSlot1 : Obligations.ReceiveStepSlot1 := by
  intro p a time s hphase
  have hcause : (attempt p .slot1 a time s).dec.cause0 = s.dec.cause0 := by rw [attempt_eq, storeAnswer_cause0]
  rw [takeTurn_decoder_of_rx1 p a time hphase, receiveStep1, decDoneEvent, hcause]
  simp [State.emit, bothFilled]

/-- The DecDone is the last event of the attempt-2 and completion step (R102). -/
theorem receiveStep1_getLast? (p : Params) (a : ReceiveAnswer) (time : Nat) (s : State) :
    (receiveStep1 p a time s).events.getLast? =
      some (decDoneEvent (storeAnswer .slot1 a s.dec) (receiveCause .slot1 a)) := by
  rw [receiveStep1_eq, ← List.append_assoc, List.getLast?_concat]

/-- Settles O38: a mismatch stores nothing, and its cause is kept in cause0 or reported as rx1. -/
theorem frameAtWrongAttemptDiscarded : Obligations.FrameAtWrongAttemptDiscarded := by
  intro p f time s
  constructor
  · intro hphase hid
    have hmismatch : f.id ≠ slotId .slot0 := hid ▸ slotId_ne.symm
    refine ⟨_, takeTurn_decoder_of_rx0 p _ time hphase, ?_⟩
    rw [receiveStep0_eq, storeAnswer_of_mismatch hmismatch, receiveCause_of_mismatch hmismatch]
  · intro hphase hid
    have hmismatch : f.id ≠ slotId .slot1 := hid ▸ slotId_ne
    refine ⟨_, takeTurn_decoder_of_rx1 p _ time hphase, ?_, ?_⟩
    · rw [receiveStep1_eq, storeAnswer_of_mismatch hmismatch]
    · rw [receiveStep1_getLast?, storeAnswer_of_mismatch hmismatch, receiveCause_of_mismatch hmismatch, decDoneEvent_eq]
      exact ⟨_, _, rfl⟩

/-! ### Who sets a tracker bit -/

/-- An attempt that sets a tracker bit got a frame of the bit's slot, and leaves its data there (R103, R104). -/
theorem storeAnswer_of_bit_rises {k j : Slot} {a : ReceiveAnswer} {d : DecUnit} (h : validBit d.valid k = false)
    (h' : validBit (storeAnswer j a d).valid k = true) :
    ∃ f, a = .frame f ∧ f.id = slotId k ∧ slotData (storeAnswer j a d) k = f.data := by
  obtain rfl : k = j := by
    by_contra hne
    rw [validBit_storeAnswer_of_ne a d hne, h] at h'
    cases h'
  exact slotData_storeAnswer_of_ok d ((validBit_storeAnswer_iff a h).mp h')

/-- Settles O39: of all that a turn can do to the decoder, only an attempt sets a tracker bit. -/
theorem slotAssignmentLaw : Obligations.SlotAssignmentLaw := by
  intro p turn s t k hturn hold hnew
  rcases takeTurn_dec_cases hturn with ⟨hdec, _⟩ | ⟨_, hdec⟩ | ⟨_, _, _, _, _, hdec⟩ | ⟨_, a, time, rfl, hdec, _⟩ |
    ⟨_, a, time, rfl, hdec, _⟩ <;> rw [hdec] at hnew ⊢
  · simp [hold] at hnew
  · simp [DecUnit.reset] at hnew
  · simp at hnew
  · obtain ⟨f, rfl, hid, hdata⟩ := storeAnswer_of_bit_rises hold hnew
    exact ⟨f, time, rfl, hid, (slotOf_eq_some_iff f.id k).mpr hid, (slotData_withCause0 _ _ _ k).trans hdata⟩
  · obtain ⟨f, rfl, hid, hdata⟩ := storeAnswer_of_bit_rises hold hnew
    exact ⟨f, time, rfl, hid, (slotOf_eq_some_iff f.id k).mpr hid, (slotData_withPhase _ _ k).trans hdata⟩

/-! ### The DecDone events of a history -/

@[simp] theorem isDecDone_cmdResp (opcode : BitVec 8) (cause : Cause) : isDecDone (.cmdResp opcode cause) = false := rfl

@[simp] theorem isDecDone_encDone (tx0 tx1 : Cause) : isDecDone (.encDone tx0 tx1) = false := rfl

@[simp] theorem isDecDone_trace (t : Trace) : isDecDone (.trace t) = false := rfl

@[simp] theorem isDecDone_decDoneEvent (d : DecUnit) (rx1 : Cause) : isDecDone (decDoneEvent d rx1) = true := by
  rw [decDoneEvent_eq, isDecDone]

@[simp] theorem filter_isDecDone_receiveTrace (p : Params) (k : Slot) (a : ReceiveAnswer) (time : Nat) :
    ((receiveTrace p k a time).toList.map Event.trace).filter isDecDone = [] := by
  cases receiveTrace p k a time <;> rfl

/-! ### The decode cycle between the decoder's turns -/

/-- How far the decode cycle is: the decoder's elements, its port and the DecDone events. -/
def decodeCycle (s : State) : DecUnit × List ReceiveRecord × List Event :=
  (s.dec, s.receives, s.events.filter isDecDone)

theorem decodeCycle_eq_iff {s s' : State} : decodeCycle s = decodeCycle s' ↔
    s.dec = s'.dec ∧ s.receives = s'.receives ∧ s.events.filter isDecDone = s'.events.filter isDecDone := by
  simp [decodeCycle]

theorem decodeCycle_encoderTurn (p : Params) (a : SendAnswer) (time : Nat) (s : State) :
    decodeCycle (encoderTurn p a time s) = decodeCycle s := by
  rcases encoderTurn_cases p a time s with ⟨_, h⟩ | ⟨_, h⟩ | ⟨_, h⟩ <;> rw [h]
  · simp [decodeCycle, sendStep0_eq]
  · simp [decodeCycle, sendStep1_eq]

/-- While the decoder is busy no command step moves its cycle: another DEC is lost (R75). -/
theorem decodeCycle_commandStep {cmd : Word} {s t : State} (hbusy : s.dec.phase ≠ .idle)
    (h : commandStep cmd s = .next t) : decodeCycle t = decodeCycle s := by
  rcases commandStep_next cmd s with ⟨_, h'⟩ | ⟨_, _, _, _, h'⟩ | ⟨_, _, hidle, _⟩
  · cases h'.symm.trans h
    simp [decodeCycle]
  · cases h'.symm.trans h
    simp [decodeCycle]
  · exact absurd hidle hbusy

/-- While the decoder is busy no turn but its own and a reset moves its cycle (R74). -/
theorem decodeCycle_takeTurn_others {p : Params} {turn : Turn} {s t : State} (hbusy : s.dec.phase ≠ .idle)
    (hothers : othersThanDecoder turn = true) (h : takeTurn p turn s = .next t) : decodeCycle t = decodeCycle s := by
  cases turn with
  | host cmd => exact decodeCycle_commandStep hbusy h
  | encoder a time => cases h; exact decodeCycle_encoderTurn p a time s
  | decoder a time => cases hothers
  | reset => cases hothers

theorem decodeCycle_runTurns_others (p : Params) {turns : List Turn} {s : State} (hbusy : s.dec.phase ≠ .idle)
    (hothers : turns.all othersThanDecoder = true) :
    ∃ t, runTurns p turns s = .next t ∧ decodeCycle t = decodeCycle s := by
  induction turns generalizing s with
  | nil => exact ⟨s, rfl, rfl⟩
  | cons turn turns ih =>
    obtain ⟨hturn, hturns⟩ : othersThanDecoder turn = true ∧ turns.all othersThanDecoder = true := by
      simpa using hothers
    obtain ⟨u, hu⟩ := takeTurn_total p turn s
    have hkept := decodeCycle_takeTurn_others hbusy hturn hu
    have hbusy' : u.dec.phase ≠ .idle := by rwa [(decodeCycle_eq_iff.mp hkept).1]
    obtain ⟨t, hrun, hrest⟩ := ih hbusy' hturns
    exact ⟨t, (runTurns_cons hu turns).trans hrun, hrest.trans hkept⟩

/-! ### The frame buffer of one decode cycle -/

/-- The decoder in phase RX1 of a cycle: attempt 1 of an accepted DEC got the answer `a0` (R97, R101). -/
def afterAttempt0 (d : DecUnit) (timeout : BitVec 32) (a0 : ReceiveAnswer) : DecUnit :=
  { storeAnswer .slot0 a0
      { d with timeout := timeout, slot0 := zeros 8, slot1 := zeros 8, valid := 0b00, phase := .rx0 } with
    cause0 := receiveCause .slot0 a0, phase := .rx1 }

/-- The decoder at the DecDone of a cycle: attempt 2 got the answer `a1` (R102). -/
def afterAttempts (d : DecUnit) (timeout : BitVec 32) (a0 a1 : ReceiveAnswer) : DecUnit :=
  storeAnswer .slot1 a1 (afterAttempt0 d timeout a0)

section
variable (d : DecUnit) (timeout : BitVec 32) (a0 a1 : ReceiveAnswer)

theorem validBit_afterAttempts_slot0 :
    validBit (afterAttempts d timeout a0 a1).valid .slot0 = true ↔ receiveCause .slot0 a0 = .ok := by
  rw [afterAttempts, validBit_storeAnswer_of_ne (k := .slot1) (j := .slot0) a1 _ nofun]
  exact validBit_storeAnswer_iff a0 (validBit_zero .slot0)

theorem validBit_afterAttempts_slot1 :
    validBit (afterAttempts d timeout a0 a1).valid .slot1 = true ↔ receiveCause .slot1 a1 = .ok := by
  refine validBit_storeAnswer_iff a1 ?_
  exact (validBit_storeAnswer_of_ne (k := .slot0) (j := .slot1) a0 _ nofun).trans (validBit_zero .slot1)

theorem bothFilled_afterAttempts : bothFilled (afterAttempts d timeout a0 a1).valid = true ↔
    receiveCause .slot0 a0 = .ok ∧ receiveCause .slot1 a1 = .ok := by
  rw [bothFilled_iff, validBit_afterAttempts_slot0, validBit_afterAttempts_slot1]

/-- The first frame's data stands in slot 0 to the end of the cycle. -/
theorem slot0_afterAttempts {f : Frame} (h : f.id = slotId .slot0) :
    (afterAttempts d timeout (.frame f) a1).slot0 = f.data := by
  refine (slotData_storeAnswer_of_ne (k := .slot1) (j := .slot0) a1 _ nofun).trans ?_
  rw [afterAttempt0, storeAnswer_of_match h]
  rfl

/-- The DecDone of a cycle whose two attempts matched: the record is the first frame's (R107, R108). -/
theorem decDoneEvent_of_both_matched {f0 f1 : Frame} (h0 : f0.id = slotId .slot0) (h1 : f1.id = slotId .slot1) :
    decDoneEvent (afterAttempts d timeout (.frame f0) (.frame f1)) (receiveCause .slot1 (.frame f1)) =
      .decDone .ok .ok .ok
        (some { rotationalSpeed := f0.data[0] ++ f0.data[1], vehicleSpeed := f0.data[2] ++ f0.data[3] }) := by
  have hok0 := receiveCause_of_match h0
  have hok1 := receiveCause_of_match h1
  have hfilled := (bothFilled_afterAttempts d timeout (.frame f0) (.frame f1)).mpr ⟨hok0, hok1⟩
  have hcause : (afterAttempts d timeout (.frame f0) (.frame f1)).cause0 = .ok :=
    (storeAnswer_cause0 _ _ _).trans hok0
  rw [decDoneEvent_eq, if_pos hfilled, if_pos hfilled, extract_assemble, slot0_afterAttempts d timeout _ h0, hcause,
    hok1]

/-- The DecDone of any other cycle: no record, and each attempt's cause (R109). -/
theorem decDoneEvent_of_not_both (h : ¬ (receiveCause .slot0 a0 = .ok ∧ receiveCause .slot1 a1 = .ok)) :
    decDoneEvent (afterAttempts d timeout a0 a1) (receiveCause .slot1 a1) =
      .decDone (receiveCause .slot0 a0) (receiveCause .slot1 a1) .incompleteRecord none := by
  have hunfilled := mt (bothFilled_afterAttempts d timeout a0 a1).mp h
  have hcause : (afterAttempts d timeout a0 a1).cause0 = receiveCause .slot0 a0 := storeAnswer_cause0 _ _ _
  rw [decDoneEvent_eq, if_neg hunfilled, if_neg hunfilled, hcause]

end

/-! ### The whole decode cycle -/

/-- The run of a decode cycle: acceptance and the two receive steps move it, and the turns between them leave it as it
stands. -/
theorem runTurns_decode_cycle (p : Params) {s : State} (timeout : BitVec 32) {m1 m2 : List Turn}
    (a0 a1 : ReceiveAnswer) (time0 time1 : Nat) (hidle : s.dec.phase = .idle)
    (hm1 : m1.all othersThanDecoder = true) (hm2 : m2.all othersThanDecoder = true) :
    ∃ t, runTurns p (.host (encode (.dec timeout)) :: m1 ++ .decoder a0 time0 :: m2 ++ [.decoder a1 time1]) s = .next t ∧
      t.dec = { afterAttempts s.dec timeout a0 a1 with phase := .idle } ∧
      t.receives = s.receives ++ [{ timeout := timeout, answer := a0 }, { timeout := timeout, answer := a1 }] ∧
      t.events.filter isDecDone = s.events.filter isDecDone ++
        [decDoneEvent (afterAttempts s.dec timeout a0 a1) (receiveCause .slot1 a1)] ∧
      t.events.getLast? = some (decDoneEvent (afterAttempts s.dec timeout a0 a1) (receiveCause .slot1 a1)) := by
  have haccept := (takeTurn_host_encode p (.dec timeout) s).trans (exec_dec_of_idle hidle timeout)
  obtain ⟨u, hrun1, hu⟩ := decodeCycle_runTurns_others p
    (s := decAccept timeout (s.respond opcodeDec .ok)) nofun hm1
  obtain ⟨hudec, hureceives, hudone⟩ := decodeCycle_eq_iff.mp hu
  have hfirst : runTurns p (.host (encode (.dec timeout)) :: m1) s = .next u := (runTurns_cons haccept m1).trans hrun1
  have hreceive0 := takeTurn_decoder_of_rx0 p a0 time0 (s := u) (by rw [hudec]; rfl)
  obtain ⟨v, hrun2, hv⟩ := decodeCycle_runTurns_others p (s := receiveStep0 p a0 time0 u) nofun hm2
  obtain ⟨hvdec, hvreceives, hvdone⟩ := decodeCycle_eq_iff.mp hv
  have hsecond : runTurns p (.decoder a0 time0 :: m2) u = .next v := (runTurns_cons hreceive0 m2).trans hrun2
  have hreceive1 := takeTurn_decoder_of_rx1 p a1 time1 (s := v) (by rw [hvdec]; rfl)
  have hbuffer : v.dec = afterAttempt0 s.dec timeout a0 := by
    rw [hvdec, receiveStep0_eq, hudec]
    rfl
  have htimeout0 : u.dec.timeout = timeout := by rw [hudec]; rfl
  have htimeout1 : v.dec.timeout = timeout := by rw [hbuffer]; exact storeAnswer_timeout _ _ _
  refine ⟨receiveStep1 p a1 time1 v, ?_, ?_, ?_, ?_, ?_⟩
  · rw [runTurns_append _ _ ((runTurns_append _ _ hfirst).trans hsecond)]
    exact runTurns_cons hreceive1 []
  · rw [receiveStep1_eq, hbuffer, afterAttempts]
  · simp [receiveStep1_eq, htimeout1, hvreceives, receiveStep0_eq, htimeout0, hureceives]
  · simp [receiveStep1_eq, hbuffer, afterAttempts, hvdone, receiveStep0_eq, hudone]
  · rw [receiveStep1_getLast?, hbuffer, afterAttempts]

/-- Settles O37: the run of the cycle, with its tracker bits and its DecDone read from the two answers. -/
theorem decodeCycleReportsItsTwoAttempts : Obligations.DecodeCycleReportsItsTwoAttempts := by
  intro p s timeout m1 m2 a0 a1 time0 time1 hidle hm1 hm2
  obtain ⟨t, hrun, hdec, hreceives, hdone, hlast⟩ := runTurns_decode_cycle p timeout a0 a1 time0 time1 hidle hm1 hm2
  refine ⟨t, hrun, by rw [hdec], ?_, hreceives, ?_, ?_, by rw [hdone, hlast]; rfl, ?_, fun hnot => ?_⟩
  · rw [hdec]
    exact (storeAnswer_timeout _ _ _).trans (storeAnswer_timeout _ _ _)
  · rw [hdec]
    exact (validBit_afterAttempts_slot0 ..).trans (receiveCause_eq_ok_iff .slot0 a0)
  · rw [hdec]
    exact (validBit_afterAttempts_slot1 ..).trans (receiveCause_eq_ok_iff .slot1 a1)
  · rintro f0 f1 rfl rfl h0 h1
    rw [hlast, decDoneEvent_of_both_matched s.dec timeout h0 h1]
  · rw [hlast, decDoneEvent_of_not_both]
    rw [receiveCause_eq_ok_iff, receiveCause_eq_ok_iff]
    exact fun ⟨⟨f0, ha0, h0⟩, ⟨f1, ha1, h1⟩⟩ => hnot ⟨f0, f1, ha0, ha1, h0, h1⟩

end Sys2Proof.Safety

/-! PROOFS. The trace emitter: each unit step is its untraced pseudocode but for Trace events, whatever the timestamp and
the tracing of timeouts (R116, R118), and the time split of a rendered line (R121). -/

namespace Sys2Proof.Safety

open Sys2Proof.Machine

/-! ### A history without its Traces -/

@[simp] theorem isTrace_trace (t : Trace) : isTrace (.trace t) = true := rfl

@[simp] theorem isTrace_encDone (tx0 tx1 : Cause) : isTrace (.encDone tx0 tx1) = false := rfl

@[simp] theorem isTrace_decDoneEvent (d : DecUnit) (rx1 : Cause) : isTrace (decDoneEvent d rx1) = false := by
  rw [decDoneEvent_eq, isTrace]

@[simp] theorem filter_not_isTrace_receiveTrace (p : Params) (k : Slot) (a : ReceiveAnswer) (time : Nat) :
    ((receiveTrace p k a time).toList.map Event.trace).filter (fun e => !isTrace e) = [] := by
  cases receiveTrace p k a time <;> rfl

/-! ### The unit steps against their untraced pseudocode -/

/-- Only the Traces tell the encoder's turn from R90 and R91 untraced; an IDLE encoder has none (log entry 2). -/
theorem withoutTraces_encoderTurn (p : Params) (a : SendAnswer) (time : Nat) (s : State) :
    withoutTraces (encoderTurn p a time s) = withoutTraces (encoderTurnUntraced p a s) := by
  rcases encoderTurn_cases p a time s with ⟨hphase, h⟩ | ⟨hphase, h⟩ | ⟨hphase, h⟩ <;>
    simp only [h, encoderTurnUntraced, hphase]
  · simp [sendStep0_eq, withoutTraces, State.send]
  · simp [sendStep1_eq, withoutTraces, State.send, State.emit]

/-- Only the Traces tell the decoder's turn from R100 to R102 untraced; an IDLE decoder has none (log entry 2). -/
theorem withoutTraces_decoderTurn (p : Params) (a : ReceiveAnswer) (time : Nat) (s : State) :
    withoutTraces (decoderTurn p a time s) = withoutTraces (decoderTurnUntraced a s) := by
  rcases decoderTurn_cases p a time s with ⟨hphase, h⟩ | ⟨hphase, h⟩ | ⟨hphase, h⟩ <;>
    simp only [h, decoderTurnUntraced, hphase]
  · simp [receiveStep0_eq, withoutTraces, State.receive]
  · simp [receiveStep1_eq, withoutTraces, State.receive, State.emit]

/-- `P_TRACE_RX_TIMEOUT` concerns Traces only, and the untraced encoder turn does not read it. -/
theorem encoderTurnUntraced_traceRxTimeout (p : Params) (traced : Bool) (a : SendAnswer) (s : State) :
    encoderTurnUntraced { p with traceRxTimeout := traced } a s = encoderTurnUntraced p a s := rfl

/-- Settles O44: both sides of each comparison are the untraced turn, which has neither a timestamp nor the tracing of
timeouts. -/
theorem tracingChangesNoState : Obligations.TracingChangesNoState := by
  intro p traced time time' s
  refine ⟨fun _ => rfl, rfl, fun a => ⟨_, rfl, withoutTraces_encoderTurn p a time s⟩,
    fun a => ⟨_, rfl, withoutTraces_decoderTurn p a time s⟩, fun a => ⟨_, _, rfl, rfl, ?_⟩,
    fun a => ⟨_, _, rfl, rfl, ?_⟩⟩
  · rw [withoutTraces_encoderTurn, withoutTraces_encoderTurn, encoderTurnUntraced_traceRxTimeout p traced]
  · rw [withoutTraces_decoderTurn, withoutTraces_decoderTurn]

/-! ### The time split of a rendered line -/

/-- A time is put together again from its split: hours take all that is left, so they do not wrap. -/
theorem timeSplit_sum (t : Nat) :
    t / 3600000 * 3600000 + t / 60000 % 60 * 60000 + t / 1000 % 60 * 1000 + t % 1000 = t := by
  omega

/-- Settles O48: the four formulas are the renderer's own, and they add up. -/
theorem renderedTimeSplit : Obligations.RenderedTimeSplit := fun t =>
  ⟨rfl, rfl, rfl, rfl, timeSplit_sum t.time⟩

end Sys2Proof.Safety

/-! PROOFS. Every step answers a next state (R124 to R126), and the codes of the causes (R122). -/

namespace Sys2Proof.Safety

open Sys2Proof.Machine

/-- Settles O27: a step is the next turn taken, and no turn faults or is refused, be it a command that is illegal, has a
reserved field set or meets a busy unit, or the turn of an IDLE unit (log entry 2). -/
theorem everyStepAnswersNext : Obligations.EveryStepAnswersNext := fun s =>
  takeTurn_total Config.params s.nextTurn s.consumeTurn

/-- A cause can be read back from its code: R122 numbers the causes in the order in which `Cause` lists them. -/
theorem ofNat_causeCode (c : Cause) : Cause.ofNat (causeCode c).toNat = c := by
  cases c <;> rfl

/-- So no two causes share a code. -/
theorem causeCode_injective : Function.Injective causeCode :=
  Function.LeftInverse.injective (g := fun code : BitVec 4 => Cause.ofNat code.toNat) ofNat_causeCode

/-- Codes 8 to 15 are never produced (R122). -/
theorem causeCode_lt_eight (c : Cause) : (causeCode c).toNat < 8 := by
  cases c <;> decide

/-- Settles O45: the table is the definition's own, and a code can be read back. -/
theorem causeCodes : Obligations.CauseCodes :=
  ⟨rfl, rfl, rfl, rfl, rfl, rfl, rfl, rfl, causeCode_lt_eight, fun _ _ h => causeCode_injective h⟩

end Sys2Proof.Safety

/-! PROOFS. What a reset leaves of the cycles it meets and a DEC of the frame buffer it meets, and the turns a busy unit
still needs to report its completion. -/

namespace Sys2Proof.Safety

open Sys2Proof.Machine

/-! ### Reset -/

theorem takeTurn_reset (p : Params) (s : State) : takeTurn p .reset s = .next (resetStep s) := rfl

/-- Settles O50: the reset step writes the two units alone, and the values it writes are those of R142. -/
theorem resetStepEffects : Obligations.ResetStepEffects := takeTurn_reset

/-- Settles O51: after the reset both units are IDLE, and their turns leave an IDLE block as it is. -/
theorem resetAbandonsCycles : Obligations.ResetAbandonsCycles := by
  intro p turns s hunits
  have hrest : runTurns p turns (resetStep s) = .next (resetStep s) := idleBlockStaysAsItIs p turns _ rfl rfl hunits
  exact ⟨resetStep s, (runTurns_cons (takeTurn_reset p s) turns).trans hrest, resetStep_events s, resetStep_sends s,
    resetStep_receives s⟩

/-! ### The frame buffer before a DEC -/

/-- Acceptance overwrites both slots and the tracker (R97). -/
theorem decAccept_overwrites_slots (timeout : BitVec 32) (slot0 slot1 : Bytes 8) (valid : BitVec 2) (s : State) :
    decAccept timeout { s with dec := { s.dec with slot0 := slot0, slot1 := slot1, valid := valid } } =
      decAccept timeout s := rfl

/-- Settles O41: the decoder is IDLE whatever its slots hold, so that DEC is accepted and overwrites them. -/
theorem noStaleSlotData : Obligations.NoStaleSlotData := by
  intro s timeout slot0 slot1 valid hidle
  have hstale := exec_dec_of_idle
    (s := { s with dec := { s.dec with slot0 := slot0, slot1 := slot1, valid := valid } }) hidle timeout
  rw [hstale, exec_dec_of_idle hidle timeout]
  exact congrArg _ (decAccept_overwrites_slots timeout slot0 slot1 valid (s.respond opcodeDec .ok))

/-! ### A run with enough turns reports -/

/-- Bounded progress, said once for both units. `left` bounds the turns of `own` a unit still needs: if each turn but a
reset, taken while it is above 0, either reports or keeps it above 0, and does not raise it, and lowers it where the turn
is an own one, then a run without a reset that has as many own turns as are left reports. -/
theorem runTurns_reports (p : Params) (own : Turn → Bool) (done : Event → Bool) (left : State → Nat)
    (hstep : ∀ {turn s t new}, turn ≠ .reset → takeTurn p turn s = .next t → t.events = s.events ++ new →
      0 < left s → (∃ e ∈ new, done e = true) ∨ (0 < left t ∧ left t + (if own turn then 1 else 0) ≤ left s))
    {turns : List Turn} (hreset : Turn.reset ∉ turns) (s : State) :
    ∃ t new, runTurns p turns s = .next t ∧ t.events = s.events ++ new ∧
      (0 < left s → left s ≤ turns.countP own → ∃ e ∈ new, done e = true) := by
  induction turns generalizing s with
  | nil => exact ⟨s, [], rfl, by simp, fun hpos hle => absurd hle (Nat.not_le_of_gt hpos)⟩
  | cons turn turns ih =>
    obtain ⟨hturn, hturns⟩ : turn ≠ .reset ∧ Turn.reset ∉ turns := by simpa [eq_comm] using hreset
    obtain ⟨u, first, hu, hfirst, -⟩ := takeTurn_appendsUnread p turn s
    obtain ⟨t, rest, hrun, hrest, hreports⟩ := ih hturns u
    refine ⟨t, first ++ rest, (runTurns_cons hu turns).trans hrun, by simp [hrest, hfirst], fun hpos hle => ?_⟩
    rcases hstep hturn hu hfirst hpos with ⟨e, he, hdone⟩ | ⟨hpos', hle'⟩
    · exact ⟨e, List.mem_append_left rest he, hdone⟩
    · rw [List.countP_cons] at hle
      obtain ⟨e, he, hdone⟩ := hreports hpos' (by omega)
      exact ⟨e, List.mem_append_right first he, hdone⟩

/-! ### The turns a busy unit still needs -/

/-- How many turns of its own the encoder needs until its EncDone; 0 while it is IDLE. -/
def encTurnsLeft (s : State) : Nat :=
  match s.enc.phase with
  | .idle => 0
  | .send0 => 2
  | .send1 => 1

theorem encTurnsLeft_pos_iff (s : State) : 0 < encTurnsLeft s ↔ s.enc.phase ≠ .idle := by
  cases h : s.enc.phase <;> simp [encTurnsLeft, h]

theorem encTurnsLeft_le_two (s : State) : encTurnsLeft s ≤ 2 := by
  cases h : s.enc.phase <;> simp [encTurnsLeft, h]

theorem encTurnsLeft_congr {s t : State} (h : t.enc = s.enc) : encTurnsLeft t = encTurnsLeft s := by
  simp only [encTurnsLeft, h]

/-- A busy encoder's turn is one of its two send steps, and the other agents' turns leave it where it is. -/
theorem takeTurn_advances_encoder {p : Params} {turn : Turn} {s t : State} {new : List Event} (hreset : turn ≠ .reset)
    (h : takeTurn p turn s = .next t) (hnew : t.events = s.events ++ new) (hleft : 0 < encTurnsLeft s) :
    (∃ e ∈ new, isEncDone e = true) ∨
      (0 < encTurnsLeft t ∧ encTurnsLeft t + (if encoderTurns turn then 1 else 0) ≤ encTurnsLeft s) := by
  have hbusy := (encTurnsLeft_pos_iff s).mp hleft
  have hkept (hothers : othersThanEncoder turn = true) : encTurnsLeft t = encTurnsLeft s :=
    encTurnsLeft_congr (takeTurn_others_keeps_encodeCycle hbusy hothers h).enc
  cases turn with
  | host cmd => rw [hkept rfl]; exact .inr ⟨hleft, Nat.le_refl _⟩
  | decoder a time => rw [hkept rfl]; exact .inr ⟨hleft, Nat.le_refl _⟩
  | reset => exact absurd rfl hreset
  | encoder a time =>
    cases h
    rcases encoderTurn_cases p a time s with ⟨hphase, _⟩ | ⟨hphase, h⟩ | ⟨hphase, h⟩
    · exact absurd hphase hbusy
    · exact .inr (by simp [h, encTurnsLeft, hphase, sendStep0_eq, encoderTurns])
    · rw [h, sendStep1_eq] at hnew
      obtain rfl := List.append_cancel_left hnew
      exact .inl ⟨_, List.mem_cons_of_mem _ (List.mem_cons_self ..), rfl⟩

/-- How many turns of its own the decoder needs until its DecDone; 0 while it is IDLE. -/
def decTurnsLeft (s : State) : Nat :=
  match s.dec.phase with
  | .idle => 0
  | .rx0 => 2
  | .rx1 => 1

theorem decTurnsLeft_pos_iff (s : State) : 0 < decTurnsLeft s ↔ s.dec.phase ≠ .idle := by
  cases h : s.dec.phase <;> simp [decTurnsLeft, h]

theorem decTurnsLeft_le_two (s : State) : decTurnsLeft s ≤ 2 := by
  cases h : s.dec.phase <;> simp [decTurnsLeft, h]

theorem decTurnsLeft_congr {s t : State} (h : t.dec = s.dec) : decTurnsLeft t = decTurnsLeft s := by
  simp only [decTurnsLeft, h]

/-- A busy decoder's turn is one of its two receive steps, and the other agents' turns leave it where it is. -/
theorem takeTurn_advances_decoder {p : Params} {turn : Turn} {s t : State} {new : List Event} (hreset : turn ≠ .reset)
    (h : takeTurn p turn s = .next t) (hnew : t.events = s.events ++ new) (hleft : 0 < decTurnsLeft s) :
    (∃ e ∈ new, isDecDone e = true) ∨
      (0 < decTurnsLeft t ∧ decTurnsLeft t + (if decoderTurns turn then 1 else 0) ≤ decTurnsLeft s) := by
  have hbusy := (decTurnsLeft_pos_iff s).mp hleft
  have hkept (hothers : othersThanDecoder turn = true) : decTurnsLeft t = decTurnsLeft s :=
    decTurnsLeft_congr (decodeCycle_eq_iff.mp (decodeCycle_takeTurn_others hbusy hothers h)).1
  cases turn with
  | host cmd => rw [hkept rfl]; exact .inr ⟨hleft, Nat.le_refl _⟩
  | encoder a time => rw [hkept rfl]; exact .inr ⟨hleft, Nat.le_refl _⟩
  | reset => exact absurd rfl hreset
  | decoder a time =>
    cases h
    rcases decoderTurn_cases p a time s with ⟨hphase, _⟩ | ⟨hphase, h⟩ | ⟨hphase, h⟩
    · exact absurd hphase hbusy
    · exact .inr (by simp [h, decTurnsLeft, hphase, receiveStep0_eq, decoderTurns])
    · rw [h, receiveStep1_eq] at hnew
      obtain rfl := List.append_cancel_left hnew
      exact .inl ⟨_, List.mem_append_right _ (List.mem_singleton_self _), isDecDone_decDoneEvent _ _⟩

/-! ### Completion in two turns -/

theorem isEncDone_iff (e : Event) : isEncDone e = true ↔ ∃ tx0 tx1, e = .encDone tx0 tx1 := by
  cases e <;> simp [isEncDone]

theorem isDecDone_iff (e : Event) : isDecDone e = true ↔ ∃ rx0 rx1 rec record, e = .decDone rx0 rx1 rec record := by
  cases e <;> simp [isDecDone]

/-- Settles O59: neither unit ever needs more than two turns of its own, and both readings are of the same run. -/
theorem busyUnitCompletesInTwoTurns : Obligations.BusyUnitCompletesInTwoTurns := by
  intro p turns s hreset
  obtain ⟨t, new, hrun, hnew, henc⟩ :=
    runTurns_reports p encoderTurns isEncDone encTurnsLeft takeTurn_advances_encoder hreset s
  obtain ⟨t', new', hrun', hnew', hdec⟩ :=
    runTurns_reports p decoderTurns isDecDone decTurnsLeft takeTurn_advances_decoder hreset s
  obtain rfl : t = t' := by simpa [hrun] using hrun'
  obtain rfl : new = new' := List.append_cancel_left (hnew.symm.trans hnew')
  refine ⟨t, new, hrun, hnew, fun hbusy hturns => ?_, fun hbusy hturns => ?_⟩
  · obtain ⟨e, he, hdone⟩ := henc ((encTurnsLeft_pos_iff s).mpr hbusy) ((encTurnsLeft_le_two s).trans hturns)
    obtain ⟨tx0, tx1, rfl⟩ := (isEncDone_iff e).mp hdone
    exact ⟨tx0, tx1, he⟩
  · obtain ⟨e, he, hdone⟩ := hdec ((decTurnsLeft_pos_iff s).mpr hbusy) ((decTurnsLeft_le_two s).trans hturns)
    obtain ⟨rx0, rx1, rec, record, rfl⟩ := (isDecDone_iff e).mp hdone
    exact ⟨rx0, rx1, rec, record, he⟩

end Sys2Proof.Safety
